-- ==== Sys2Proof/Word.lean ====
section
/-! DEFINITION. The word types of the model: bytes, 32-bit registers and 64-byte lines. -/

namespace Sys2Proof

/-- One byte of a line. -/
abbrev Byte := BitVec 8

/-- One 32-bit register. -/
abbrev Word := BitVec 32

/-- The 64 data bytes of a stored line, byte 0 first (R16, R92). -/
abbrev Line := List Byte

/-- A sparse table: (index, value) pairs, indices strictly rising; an unlisted index reads as the table's rest value. -/
abbrev Tab (α : Type) := List (Nat × α)

end Sys2Proof
end

