-- ==== Sys2Proof/Syntax.lean ====
section
/-! DEFINITION. The commands of the block: one constructor per row of the table of operations and events, with the
operands that the signals and records of the row's rule carry. The table gives no bits, so the operands are the model's (log 1). -/

namespace Sys2Proof

/-- A target data port (R79, Table 3-1): the five ports of core `c`, and inbound HP. -/
inductive Port where
  | ma (c : Nat)
  | mb (c : Nat)
  | mc (c : Nat)
  | vx (c : Nat)
  | cd (c : Nat)
  | hp
deriving DecidableEq, Repr

/-- Who writes or reads a register through the register hub (R39). -/
inductive Agent where
  | mp
  | acien
deriving DecidableEq, Repr

/-- The request fields of Table 3-2 at the acceptance edge (R84). `len` is the field value, lines minus 1. `opRsvd` is
p_rq_op = 0b11. -/
structure RqFields where
  opRsvd : Bool
  addr : Nat
  len : Nat
  qos : Nat
  tag : Nat
  view : Nat
  vty : Bool
  rnd : Bool
  emen : Bool
  emask : List Nat
  seq : Nat
deriving DecidableEq, Repr

/-- Bits of a stored line that the array flips, as bit positions 0..575: word w holds bits 72w..72w+71, its data bits
first (R373). A physical event that the sender names (R374). -/
abbrev Upset := List Nat

/-- The Sorrel operation fields of Table 9-3. -/
structure SyFields where
  obj : Nat
  named : Bool
  ph : Nat
  ctx : Nat
  seq : Nat
deriving DecidableEq, Repr

/-- A stack port or outbound HP (R74, R75). -/
inductive SaPort where
  | sp (s : Nat)
  | hpo
deriving DecidableEq, Repr

/-- One section of a configuration image (R460): REG entries (offset, value), BOOT bytes at an offset, NOTE, or an
unsupported type with its payload length. -/
inductive Section where
  | reg (entries : List (Nat × Word))
  | boot (offset : Nat) (bytes : List Byte)
  | note (len : Nat)
  | other (type : Nat) (len : Nat)
deriving DecidableEq, Repr

/-- The flash device (R460): whether it answers, whether its SFDP table lists command 0x13, describes a method that enters 4-byte address
mode and with which command, and with which command the device enters 8D-8D-8D mode, if it describes that. -/
structure Flash where
  answers : Bool
  lists13 : Bool
  enter4 : Option Nat
  octal : Option Nat
deriving DecidableEq, Repr

/-- A read data beat of a stack port or of outbound HP: its index, whether it is the last one, and its data (Table 3-7). -/
structure RsBeat where
  bidx : Nat
  last : Bool
  data : Line
deriving DecidableEq, Repr

/-- What the pins show as the always-on island powers up: lov_dev_id and brl_rst_n (R456, R518). -/
structure PowerUp where
  devId : Nat
  rstN : Bool
deriving DecidableEq, Repr

/-- What the loader finds beside the two image slots: lov_dev_id, sampled as the reset is released (R444), and the flash device. -/
structure BootInputs where
  devId : Nat
  flash : Flash
deriving DecidableEq, Repr

/-- One image slot as the flash presents it (Table 12-4). `reads`: every read of the slot completes, after at most one retry (R461). `keyHash`
is the SHA-384 of the slot's key and `sigOk` the outcome of ECDSA P-384 over its bytes, which the spec names but does not define (log 12). -/
structure Slot where
  reads : Bool
  magic : Nat
  format : Nat
  compat : Nat
  length : Nat
  version : Word
  flags : Nat
  keyHash : BitVec 384
  sigOk : Bool
  sections : List Section
deriving DecidableEq, Repr

/-- A rail with a monitor that causes a wake freeze or a brown-out (Table 11-5). -/
inductive Rail where
  | vddA
  | vddB
deriving DecidableEq, Repr

/-- The work presented at ports and not admitted in one interval, in mW, by source: the ports of each schedule group, and HP with the inbound
links (R439). -/
structure Demand where
  g0 : Nat
  g1 : Nat
  g2 : Nat
  g3 : Nat
  dev : Nat
deriving DecidableEq, Repr

/-- Who starts or ends the reset of a domain (R467): a write of BRL_RST_HOLD, or a change of c_zrst of core c. -/
inductive HoldSrc where
  | reg (by_ : Agent) (v : Word)
  | zrst (c : Nat)
deriving DecidableEq, Repr

/-- What the checks of protected control state find. The fatal conditions of R386: the Sorrel state, a logical slice's committed entry, a
zone's migration state, no valid image. And the errors beside them that have no row of their own and are not fatal (log 94): an
uncorrectable one in a zone's pending table, and corrected ones in redirect state and in Sorrel state (R356, R387). -/
inductive FatalKind where
  | sorrel
  | committed (s : Nat)
  | migration (z : Nat)
  | image
  | pending (z : Nat)
  | redirectCe (z : Nat)
  | sorrelCe
deriving DecidableEq, Repr

/-- What happens at the TAP (R525, R527): a whole scan that loads an instruction, a scan of the IEEE 1687 network that opens the segments of some
zones and slices, a rise of brl_tck with its inputs, or a reset by brl_trst_n. -/
inductive TapOp where
  | load (code : Nat)
  | segments (zones slices : List Nat)
  | tck (tms tdi : Bool)
  | reset
deriving DecidableEq, Repr

/-- What KEY does: it programs the key-hash fuses, or reads them (Table 14-6, R533). -/
inductive KeyOp where
  | program (hash : BitVec 384)
  | read
deriving DecidableEq, Repr

/-- A change of the port clock: the new frequency in MHz, and the wander that it comes with in ps (R510, R511). -/
structure ClockChange where
  mhz : Nat
  wander : Nat
deriving DecidableEq, Repr

/-- A fuse entry that REPAIR appends (R531, R532). -/
inductive FuseEntry where
  | row (bank row : Nat)
  | column (bank segment bit : Nat)
  | lane (tier lane : Nat)
deriving DecidableEq, Repr

/-- What BIST found in one bank: pass, repairable or fail (R527, R530). -/
inductive Verdict where
  | pass
  | repairable
  | fail
deriving DecidableEq, Repr

/-- BIST's result for one bank, with the failing rows and bit positions (Table 14-6). The result is physical, so the sender names it. -/
structure BistResult where
  slice : Nat
  bank : Nat
  found : Verdict
  rows : List Nat
  cols : List Nat
deriving DecidableEq, Repr

/-- The commands: one constructor per row of the table of operations and events, in the table's order. -/
inductive Instr where
  | read (p : Port) (f : RqFields)
  | write (p : Port) (f : RqFields)
  | zmap (p : Port) (f : RqFields)
  | writeDataBeat (p : Port) (lines : List Line) (poison : List Bool)
  | responseCredit (p : Port)
  | elasticResponseBeat (p : Port) (id : Nat)
  | fixedLagDelivery (p : Port)
  | writeResponse (p : Port) (id : Nat)
  | sliceLineAccess (slice : Nat) (meet : Bool) (up : Upset)
  | guardedParityUpdate (k : Nat) (up : Upset)
  | tagGroupReload (slice bank group : Nat) (copyBad : Bool)
  | holdCutoff (g : Nat)
  | holdUnitEnd (g : Nat)
  | fullRateHold (g : Nat)
  | fullRatePacingChange (mvA mvB : Nat)
  | thyHoldLong (g : Nat)
  | thyClr (by_ : Agent) (v : Word)
  | chervilRegister (c : Nat)
  | stampGap (c : Nat)
  | writeRangeRetire (id : Nat)
  | wcAgeFlush (c : Nat) (ta : Nat)
  | kEnd (c : Nat) (seq : Nat)
  | kEndRecord (c : Nat)
  | invalidationIssue (c : Nat)
  | vxInvDone (c : Nat) (id : Nat)
  | invTimeout (c : Nat) (id : Nat)
  | fenReseedZone (by_ : Agent) (zones : Word)
  | fenReseedQueues (by_ : Agent)
  | fenReseedHp (by_ : Agent)
  | rgnEntWrite (by_ : Agent) (n : Nat) (v : Word)
  | regionClearComplete
  | brlCtrlRemap (by_ : Agent) (v : Word)
  | movQtailWrite (by_ : Agent) (q : Nat) (v : Word)
  | queueDoorbell (c j tail seq : Nat)
  | doorbellApply (c : Nat)
  | recordFetch (q : Nat) (rdy : Bool) (tag : Nat)
  | moverTake (m : Nat)
  | nop (q : Nat)
  | copy (m i : Nat)
  | fill (m i : Nat)
  | gather (m i : Nat)
  | scatter (m i : Nat)
  | route (m : Nat)
  | combine (m : Nat)
  | pack (m i : Nat)
  | unpack (m i : Nat)
  | fold (m i : Nat)
  | send (m i : Nat)
  | lpOutBeat (l q : Nat)
  | lpOutCredit (l : Nat)
  | queueArrive (q : Nat)
  | queueWait (q : Nat)
  | inval (q : Nat)
  | fence (q : Nat)
  | commandEnd (q : Nat)
  | completionRecord (q : Nat)
  | stackReadBeat (p : SaPort) (tag status : Nat) (beat : RsBeat) (poison : Bool)
  | stackWriteResponse (p : SaPort) (tag status : Nat)
  | stackHotRise (s rate : Nat)
  | stackHotFall (s : Nat)
  | stackQuiesce (by_ : Agent) (v : Word)
  | stackQuiesced (s : Nat)
  | teardown (by_ : Agent) (v : Word)
  | teardownDone
  | lpInBeat (l win gen off : Nat) (lv poison : List Bool) (data : List Line)
  | landingLineAccept (k : Nat)
  | landingLineRefused (k : Nat)
  | windowOpen (by_ : Agent) (w : Nat) (v : Word)
  | windowClose (by_ : Agent) (w : Nat) (v : Word)
  | syArrive (c : Nat) (f : SyFields)
  | syWait (c : Nat) (f : SyFields)
  | syArriveWait (c : Nat) (f : SyFields)
  | syRetract (c : Nat) (f : SyFields)
  | sySave (c : Nat) (f : SyFields)
  | syRestore (c : Nat) (f : SyFields)
  | releaseDeliver (k : Nat)
  | barrierArm (by_ : Agent) (n : Nat) (v : Word)
  | forceSet (by_ : Agent) (n : Nat) (v : Word)
  | forceRel (by_ : Agent) (n : Nat) (v : Word)
  | barrierBreak (by_ : Agent) (n : Nat) (v : Word)
  | srlDumpGo (by_ : Agent) (v : Word)
  | srlDumpDone
  | srlStateUe
  | claim (c : Nat) (f : SyFields)
  | free (c : Nat) (f : SyFields)
  | lckClaimRead (by_ : Agent) (bmcView : Bool) (i : Nat)
  | lckClaimWrite (by_ : Agent) (bmcView : Bool) (i : Nat) (v : Word)
  | mailboxMessage (viaCore : Bool) (k : Nat) (v : Word)
  | mbxAckWrite (by_ : Agent) (k : Nat) (v : Word)
  | mbxDbSet (by_ : Agent) (v : Word)
  | mbxDbClr (by_ : Agent) (v : Word)
  | ping (k : Nat)
  | dump (k : Nat)
  | migrate (k : Nat)
  | scrubRegion (k : Nat)
  | logRead (k : Nat)
  | unknownCommand (k : Nat)
  | scrubAccess (slice : Nat) (up : Upset)
  | scrubBehind
  | laneCrcError (slice tier lane : Nat)
  | laneRetrain (slice tier : Nat)
  | fullRetrain (slice tier : Nat) (handshake : Bool)
  | fullRetrainDone (slice tier : Nat) (untrained : List Nat)
  | migrationStart (by_ : Agent) (v : Word)
  | autoMigrate (s : Nat)
  | migrationCopyLine (z : Nat) (up : Upset)
  | migrationSwap (z : Nat)
  | prtCapPop (by_ : Agent)
  | logDrain
  | pwrGrpWrite (by_ : Agent) (z : Nat) (v : Word)
  | bankIdleRet (slice bank : Nat)
  | bankWake (slice bank : Nat)
  | bankWakeDone (slice bank : Nat)
  | run (by_ : Agent) (v : Word)
  | idle (by_ : Agent) (v : Word)
  | sleep (by_ : Agent) (v : Word)
  | sleepStepEnd
  | sleepDrainTimeout
  | sleepWakeEvent (cls index : Nat)
  | rtcAlarm
  | sleepExitComplete (crc : BitVec 32)
  | pwrIsoRelease (by_ : Agent) (v : Word)
  | supplyWarn (r : Rail) (mv : Nat)
  | wakeFreezeEnd (r : Rail)
  | vaoWarn (mv : Nat)
  | vretLost
  | brownOutReset (r : Rail) (mv : Nat)
  | vaoLoss
  | lovageInterval (d : Demand)
  | lovPlan (v : Nat)
  | lovShed (level : Bool)
  | powerOn (p : PowerUp)
  | immediateDeviceReset
  | requestedDeviceReset (byPin : Bool)
  | requestedResetForced
  | configLoad (x : BootInputs) (a b : Slot)
  | acienReady
  | domainFence (src : HoldSrc)
  | domainDrained (d : Nat)
  | domainRelease (src : HoldSrc)
  | cRstAck (c : Nat) (level : Bool)
  | fenceTimeout (z : Nat)
  | brlIsolClear (by_ : Agent) (v : Word)
  | fatalCondition (k : FatalKind)
  | brlAbort (by_ : Agent) (v : Word)
  | abortMarker (l org hop : Nat)
  | intSet (by_ : Agent) (v : Word)
  | evcSnap (by_ : Agent) (v : Word)
  | evcClr (by_ : Agent) (v : Word)
  | evcSelectWrite (by_ : Agent) (i : Nat) (flt : Bool) (v : Word)
  | registerWrite (by_ : Agent) (addr : Nat) (v : Word)
  | devHold (level : Bool)
  | bist (results : List BistResult)
  | repair (slice : Nat) (entries : List FuseEntry)
  | laneTest (slice tier : Nat) (failing : List Nat)
  | bondTest (tier : Nat) (broken : List Nat)
  | keyProgram (k : KeyOp)
  | fuseRead
  | railsRestored (mvA mvB : Nat)
  | spsRateChange (s rate : Nat)
  | portClockChange (k : ClockChange)
  | capturingRead (by_ : Agent) (addr : Nat)
  | tapInstruction (op : TapOp)
  | aonPorNLow
  | brlRstReqFall
deriving DecidableEq, Repr

end Sys2Proof
end

