-- ==== Sys2Proof/Config.lean ====
section
/-! DEFINITION. What the part or its maker fixes, and the free values: constants without a body, of which no proof can see a value. -/

namespace Sys2Proof.Config

/-- Byte `i` of the undefined data that draw `n` returns (R119). Log 8. -/
opaque freeByte : Nat → Nat → Byte

/-- An undefined bit of draw `n`: whether a word with three or more flips is corrected (R374, log 8), and the p_rs_zero of undefined data (R119,
log 118). -/
opaque freeBit : Nat → Bool

/-- Byte `i` of line `l` of save-area image `g`: the spec does not give the layout of the image (R425, R426). Log 9. -/
opaque saveByte : Nat → Nat → Nat → Byte

/-- The build number of the Acien firmware (Table 9-8). Log 10. -/
opaque firmwareBuild : BitVec 24

/-- The syndrome of the part's own code for the flipped bits of a word (R409). Log 11. -/
opaque syndrome : Nat → BitVec 8

/-- The undefined level of output `i` in port cycle `n`, and the undefined tick of output `i`, after a clock change (R511). Log 40. -/
opaque vagueBit : Nat → Nat → Bool
opaque vagueTick : Nat → Nat → BitVec 16

/-- The CRC-32 of save-area image `g`, whose bytes the spec does not lay out (R425). Log 9. -/
opaque saveCrc : Nat → BitVec 32

/-- Whether a stack or the host takes a write data beat: the level of its wd_rdy on port `p` in port cycle `n` (Table 3-7, R98). Log 108. -/
opaque takesBeat : Nat → Nat → Bool

/-- An access waits for the codec of zone `z` in port cycle `n` (source 0x27). Log 83. -/
opaque codecWaits : Nat → Nat → Bool

/-- The flipped bits that Sorrel's stored state shows in the register at an offset after uncorrectable error `n` (R356). Log 157. -/
opaque srlUpset : Nat → Nat → BitVec 32

/-- Lines that the landing unit can hold behind a region change (R73); the spec gives no figure (log 96). -/
opaque landRoom : Nat

/-- Logical slices, physical slices, banks per tier, lines per bank (Tables 0-1, 1-1). -/
def logicalSlices : Nat := 128
def physicalSlices : Nat := 144
def linesPerBank : Nat := 16384

/-- The highest LOV_CAP.cap in W, by fitted tiers (Table 0-1, R448). -/
def capW (tiers : Nat) : Nat := if tiers = 1 then 590 else if tiers = 2 then 650 else 720

/-- The static term with all banks ON in W (Table 0-1, R496). -/
def staticW (tiers : Nat) : Nat := if tiers = 1 then 13 else if tiers = 2 then 25 else 38

/-- The largest ballast in W (R442). -/
def ballastW (tiers : Nat) : Nat := if tiers = 1 then 180 else if tiers = 2 then 240 else 300

/-- The largest scrub ballast in W (R442). -/
def scrubW : Nat := 120

/-- Retention current per bank in µA at 105 °C and at 85 °C (R496). -/
def retUa105 (tiers : Nat) : Nat := if tiers = 1 then 1563 else if tiers = 2 then 2344 else 2610
def retUa85 (tiers : Nat) : Nat := if tiers = 1 then 976 else if tiers = 2 then 1464 else 1630

/-- Leakage per bank in µW, ON and RET (R438, Table 11-12). -/
def onUw (tiers : Nat) : Nat := if tiers = 3 then 6022 else 5859
def retUw (tiers : Nat) : Nat := if tiers = 1 then 488 else if tiers = 2 then 732 else 814

/-- One operating point of Table 13-12: mV, °C, handshakes MHz, bank ps, t_wc near, spread and far in 0.1 ns,
wake ns, zone, fold, far channel, mover. -/
structure Corner where
  mv : Nat
  temp : Nat
  hs : Nat
  bankPs : Nat
  near : Nat
  spread : Nat
  far : Nat
  wake : Nat
  zone : Nat
  fold : Nat
  farCh : Nat
  mover : Nat
deriving DecidableEq, Repr

/-- The CORNER values, which every configuration reports (R495, Table 13-12): fast, nominal, slow, EOL slow. -/
def corners : List Corner :=
  [⟨900, 0, 2100, 381, 166, 306, 842, 762, 1720, 656, 336, 512⟩,
   ⟨750, 85, 1600, 500, 218, 402, 1106, 1000, 1311, 500, 256, 512⟩,
   ⟨680, 105, 1340, 597, 260, 480, 1320, 1194, 1098, 419, 214, 512⟩,
   ⟨680, 105, 1300, 615, 268, 494, 1360, 1230, 1065, 406, 208, 512⟩]

/-- The slow record, point 2, that R136 reads. -/
def slow : Corner := ⟨680, 105, 1340, 597, 260, 480, 1320, 1194, 1098, 419, 214, 512⟩

/-- LOV_TOK[k] reference values in units of 0.01 pJ (Table 11-6). -/
def tokens : List Nat := [16384, 28160, 30720, 120, 15000, 689, 16384, 10000]

/-- Warning levels in mV of VDD_A, VDD_B and VAO, and brown-out levels of VDD_A and VDD_B (Table 11-5). -/
def warnA : Nat := 665
def warnB : Nat := 635
def warnVao : Nat := 685
def borA : Nat := 620
def borB : Nat := 600
def borVao : Nat := 620

end Sys2Proof.Config
end

