-- ==== Sys2Proof/Machine/State.lean ====
section
/-! DEFINITION. The state of the block: plain data. `State.store` is tensor memory, `State.ctl` is every other piece of state
that the spec names (INVENTORY.md lists them with their rules), `State.pending` is the queue of waiting commands. -/

namespace Sys2Proof.Machine

/-- Port status (Table 3-5). -/
inductive Status where
  | ok | poison | absent | fenced | unsupported
deriving DecidableEq, Repr

/-- Completion status of a command (Table 8-11). -/
inductive CmdStatus where
  | ok | poison | absent | fenced | unsupported | aborted | broken
deriving DecidableEq, Repr

/-- Sorrel status (Table 9-4). -/
inductive SyStatus where
  | ok | waiting | waitFull | broken | unsupported
deriving DecidableEq, Repr

/-- Slip causes (Table 4-3), in code order 0x1..0xC. -/
inductive Cause where
  | guardRebuild | retWake | retrain | supplyDip | fullRate | path | order | region | migration | lovage | lean | horizon
deriving DecidableEq, Repr

/-- Freeze causes of a barrier (Table 9-9), codes 0..5. -/
inductive Freeze where
  | none | disarmed | overflow | underflow | ownerReset | brk
deriving DecidableEq, Repr

/-- A line whose zero bit is clear: it holds data, is stored poisoned (R375), or was poisoned with its lost tag group (R267). -/
inductive Tag where
  | data | poisoned | lost
deriving DecidableEq, Repr

/-- Tensor memory. Keys are physical: line key = (48 p + b) 16384 + r, byte address = 64 times the line key + byte. -/
structure Store where
  /-- data bytes, rising addresses, no zero byte listed (R16, R268) -/
  cells : List Host.Cell
  /-- lines whose zero bit is clear (R262) -/
  tags : Tab Tag
  /-- flipped bits of stored lines (R373) -/
  upsets : Tab (List Nat)
  /-- the save-area image written last, and the save-area lines written since (R426) -/
  blur : Option Nat
  sharp : Tab Unit
deriving DecidableEq, Repr

/-- Bank states (Table 11-1), and the wake under way (R416). -/
inductive BankSt where
  | on | ret | off | waking
deriving DecidableEq, Repr

/-- One bank: its state, the LOST mark (R424), the RTC at its last access (R415), a wake wanted by an access or a policy
(R416, R421), and whether a migration copy woke it (R400). -/
structure Bank where
  st : BankSt
  lost : Bool
  last : Nat
  want : Bool
  forCopy : Bool
deriving DecidableEq, Repr

/-- What a request or an access asked for a line returned. `side` is the side entry of a format unit (R231). -/
structure LineRes where
  st : Status
  data : Line
  side : List Byte
  zero : Bool
  exc : Bool
  busy : Bool
  cause : Option Cause
deriving DecidableEq, Repr

/-- Fold operations (Table 7-5). -/
inductive FoldOp where
  | add | scaledAdd | max
deriving DecidableEq, Repr

/-- One access to a stored line or a format unit (R16, R231). Masks are 64 bits, one per byte. In a fold, `src` gives for each
destination element the source element's bits, or none where the element is not folded. -/
inductive Acc where
  | read
  | tag
  | write (data : Line) (mask : Nat) (poison : Bool)
  | unitRead (sideTa lo n : Nat)
  | unitWrite (payload : Line) (poison : Bool) (sideTa lo : Nat) (entry : List Byte)
  | fold (op : FoldOp) (weight : Nat) (stoch : Bool) (lfsr : Nat) (dstFp32 srcFp32 : Bool) (srcSt : Status) (src : List (Option Nat))
deriving DecidableEq, Repr

/-- Whose access it is: a request's line, a WC entry, a command's line, a landing line, a record fetch, a completion record, or Acien's
log access. -/
inductive Owner where
  | req (id i : Nat)
  | wc (c : Nat) (members : List (Nat × Nat))
  | mover (q key : Nat)
  | land (k : Nat)
  | record (q : Nat)
  | completion (q : Nat)
  | acien
deriving DecidableEq, Repr

/-- A line access on its way to its slice: canonical TA (R170), QoS and grants waited at the slice (R111), acceptance number, slip mark
(R150), what a meeting of privileged requests gave it (R119), and whether it has reached its slice, and as which (R111). -/
structure LineOp where
  owner : Owner
  ta : Nat
  acc : Acc
  priv : Bool
  qos : Nat
  age : Nat
  serial : Nat
  cause : Option Cause
  busy : Bool
  undef : Bool
  here : Bool
  came : Nat
deriving DecidableEq, Repr

/-- A guarded write that holds its data line until the parity slice has applied its difference (R379). `old` is the line as the write's read
found it, which a read that meets the write returns (R118). -/
structure ParityJob where
  op : LineOp
  parityTa : Nat
  diff : Line
  new : Line
  poison : Bool
  res : LineRes
  old : LineRes
deriving DecidableEq, Repr

/-- What a port request asks for. -/
inductive RqOp where
  | read | write | zmap
deriving DecidableEq, Repr

/-- How a request is to be answered: served, refused whole (R116), or accepted under a fence (R115). -/
inductive Verdict where
  | serve | unsupported | fenced
deriving DecidableEq, Repr

/-- The write range of a request (R178, R179). -/
inductive RangeSt where
  | none | waiting | held | retired
deriving DecidableEq, Repr

/-- An accepted request of a target data port that is not finished (R84..R116). -/
structure Req where
  id : Nat
  port : Port
  op : RqOp
  f : RqFields
  remap : Bool
  verdict : Verdict
  tick : Nat
  pc : Nat
  beatsIn : Nat
  wdata : List (Line × Bool)
  reg : Option Nat
  range : RangeSt
  released : Bool
  nOps : Nat
  res : Tab LineRes
  due : Option Nat
  out : Nat
  answered : Bool
  lfsr : Nat
  discard : Bool
  cause : Option Cause
deriving DecidableEq, Repr

/-- A schedule group (R129..R148, R156). `active` is sg_hold; `next1` and `next2` are the hold units decided for the next pc
and the one after; `units`, `cause`, `startTick`, `startRtc`, `warned` describe the present hold; `horizon` names the ports whose
reservation ring was passed, with the pc of the acceptance (R142). -/
structure Grp where
  tick : Nat
  active : Bool
  left : Nat
  next1 : Option Cause
  next2 : Option Cause
  tested : Bool
  units : Nat
  cause : Option Cause
  startTick : Nat
  startRtc : Nat
  warned : Bool
  horizon : List (Nat × Nat)
  sincePace : Nat
  fullRateDue : Bool
deriving DecidableEq, Repr

/-- Why an invalidation is sent (R197). -/
inductive InvWhy where
  | command (q : Nat)
  | release
  | inval (q : Nat)
deriving DecidableEq, Repr

/-- An invalidation of a core's cache (Table 5-5); `tok` is the model's number for it. -/
structure Inv where
  tok : Nat
  all : Bool
  addr : Nat
  granules : Nat
  why : InvWhy
deriving DecidableEq, Repr

/-- An invalidation outstanding under an identifier (R195). -/
structure InvOut where
  id : Nat
  inv : Inv
  rtc : Nat
deriving DecidableEq, Repr

/-- One entry of a write-combining buffer (R180..R183): canonical TA, bytes, byte mask, age, and the write lines it completes. -/
structure WcEntry where
  ta : Nat
  data : Line
  mask : Nat
  pc : Nat
  members : List (Nat × Nat)
deriving DecidableEq, Repr

inductive SyKind where
  | arrive | wait | arriveWait | retract | save | restore | claim | free
deriving DecidableEq, Repr

/-- A Sorrel operation taken from a core (R341); `reg` is its registration number (R342). -/
structure SyOp where
  kind : SyKind
  f : SyFields
  reg : Option Nat
  pc : Nat
deriving DecidableEq, Repr

/-- A kernel end (R185): its stamp, registration number, the ends it stands for (R187), and the registration number of the first of them
that has one (R189). -/
structure KEnd where
  seq : Nat
  reg : Option Nat
  count : Nat
  pc : Nat
  since : Option Nat
deriving DecidableEq, Repr

/-- A queue doorbell (R305). -/
structure Doorbell where
  q : Nat
  tail : Nat
  seq : Nat
  reg : Option Nat
  pc : Nat
deriving DecidableEq, Repr

/-- The tracker of one core (R169..R199); `gone` holds the stamps of replaced ends that are still to be registered (R187), with the pc
at which they were taken. -/
structure Chv where
  e : Nat
  ends : List KEnd
  gone : List (Nat × Nat)
  dbs : List Doorbell
  sy : List SyOp
  wc : List WcEntry
  invQ : List Inv
  invOut : List InvOut
deriving DecidableEq, Repr

/-- One line of work of ROUTE, COMBINE or FOLD: addresses, element sizes and elements of the row, destination line of the row, weight, the
state of the queue stream at the line's first element, and the number of the list entry (R277, R281, R288, R312). -/
structure Job where
  src : Nat
  dst : Nat
  ss : Nat
  ds : Nat
  n : Nat
  k : Nat
  w : Nat
  draw : Nat
  e : Nat
deriving DecidableEq, Repr

/-- A command that has started (R296): its record, ring index and mover; the command-level status and the status, bad lines and detail so
far; the lines begun, written and done, the destination lines that its list names and those whose write has been issued, and the list lines asked
for; what its reads have returned; the work of ROUTE and COMBINE, with the
state of the queue stream at each sixteenth element of each row that a COMBINE folds (R288); the element sizes of a FOLD's rows; and how it
waits or stops. `recSt`: the stage of its completion record: 3 the record is being written, 4 accepted (R316). -/
structure Run where
  words : List Nat
  idx : Nat
  mover : Option Nat
  force : Option CmdStatus
  st : CmdStatus
  bad : Nat
  detail : Nat
  issued : List Nat
  wrote : List Nat
  lists : List Nat
  done : Nat
  outstanding : Nat
  planned : Nat
  sent : Nat
  buf : Tab LineRes
  badRows : List Nat
  lfsr : Nat
  placed : Tab Nat
  dropped : Tab Nat
  draws : Tab Nat
  sizes : Nat × Nat
  todo : List Job
  going : List (Nat × Job)
  jobs : Nat
  ent : Nat
  span : Option (Nat × Nat)
  beats : Nat
  wait : Option (Nat × Bool)
  fenceOn : List (Nat × Nat)
  stop : Bool
  complete : Bool
  recSt : Nat
deriving DecidableEq, Repr

/-- One command queue (R295..R302): counters, the record at head once fetched (or the status of its failed fetch), the
running command, the data commands others started while it was ready (R297), and the tail at teardown (R330). -/
structure Queue where
  head : Nat
  done : Nat
  fetched : Option (List Nat)
  fetchBad : Option CmdStatus
  run : Option Run
  passed : Nat
  tdTail : Option Nat
  /-- a fetch of record head is under way, and what it returned -/
  asked : Bool
  came : Option LineRes
  /-- the fetch under way is for a record that is no longer wanted (R301) -/
  stale : Bool
  /-- ended commands whose completion record has not been accepted, the oldest first (R297, R316) -/
  fin : List Run
deriving DecidableEq, Repr

/-- A line request outstanding on a stack port or outbound HP (R121); `got` holds the data beats of a read that have come before its last one,
each with its index and its status. -/
structure SaReq where
  port : SaPort
  tag : Nat
  q : Nat
  key : Nat
  wr : Bool
  got : List (Nat × Status × List Byte)
deriving DecidableEq, Repr

/-- A write data beat on its way out on a stack port or outbound HP (Table 3-7): the tag of its request, its bytes, the mask of those
to be written (R316, log 22), and its poison. -/
structure WdBeat where
  port : SaPort
  tag : Nat
  data : List Byte
  mask : Nat
  poison : Bool
deriving DecidableEq, Repr

/-- A landing window (Tables 8-24, 8-25). -/
structure Win where
  isOpen : Bool
  gen : Nat
  rcv : Nat
  ref : Bool
  drop : Nat
deriving DecidableEq, Repr

/-- A landing line on its way to its slice, and the slice's outcome once known (R324..R326); `wait`: address, data and poison of a line that the
landing unit still holds (R73, R154). -/
structure Land where
  id : Nat
  link : Nat
  win : Nat
  gen : Nat
  out : Option Status
  wait : Option (Nat × Line × Bool)
deriving DecidableEq, Repr

/-- A beat at the inbound port of a link that the landing unit has not taken yet (Table 3-8, R125). -/
structure LpBeat where
  link : Nat
  win : Nat
  gen : Nat
  off : Nat
  lv : List Bool
  poison : List Bool
  data : List Line
deriving DecidableEq, Repr

/-- Barrier state (Table 9-1), waiters apart. -/
structure Barrier where
  p : Nat
  ph : Nat
  cur : Nat
  nxt : Nat
  frozen : Bool
  cause : Freeze
  last : Nat
  rinv : Bool
  relIrq : Bool
deriving DecidableEq, Repr

/-- A wait-table or save-area entry (Table 9-11); `pend` is a recorded release, true for BROKEN. -/
structure Wt where
  ctx : Nat
  pb : Bool
  bar : Nat
  pend : Option Bool
deriving DecidableEq, Repr

/-- What a release, a wake or an answer delivers (R341, R346, R348). -/
inductive RelKind where
  | wake (c ctx : Nat) (broken : Bool)
  | answer (c seq : Nat) (st : SyStatus) (val : Nat)
  | queue (q : Nat) (broken : Bool)
deriving DecidableEq, Repr

/-- A delivery that may wait for an invalidation (R197). -/
structure Rel where
  kind : RelKind
  tok : Option Nat
deriving DecidableEq, Repr

/-- A mailbox channel (Table 9-17). -/
structure Chan where
  msg : Word
  full : Bool
  ackv : Bool
  ovf : Bool
  ack : Word
deriving DecidableEq, Repr

/-- A captured event (Table 10-2). -/
structure Cap where
  kind : Nat
  pslice : Nat
  bank : Nat
  line : Nat
  word : Nat
  syn : Nat
  lane : Nat
  lslice : Nat
  time : Nat
  rep : Nat
deriving DecidableEq, Repr

/-- A background access presented to its slice's arbiter: its acceptance number, the grants it has waited for, its line, and the lines of its
stripe that it reads with it (R111, R389, R402). -/
structure Asked where
  serial : Nat
  age : Nat
  ta : Nat
  extra : List Nat
deriving DecidableEq, Repr

/-- The scrub order of a slice in the present pass: the banks left, the next one first, and the next line of that bank; `on` once
the pass has begun in the slice (R388). `asked`: the access that it has presented to the slice's arbiter (R111, R389). -/
structure Scrub where
  on : Bool
  left : List Nat
  r : Nat
  asked : Option Asked
deriving DecidableEq, Repr

/-- A lane bundle (R392..R396, Table 10-7): `spares` names the spare lanes taken, the first one first; `trained` is the RTC at its last
retrain. -/
structure Lane where
  failed : List Nat
  spares : List Nat
  degraded : Bool
  retrain : Bool
  crc : Tab Nat
  winStart : Nat
  trained : Nat
deriving DecidableEq, Repr

/-- The SCRUB_REGION command that Acien executes (Table 9-8, R389): its channel and region, the canonical address from which on the region's
lines are still to be scrubbed, the lines repaired so far, and the access that is presented to its slice's arbiter. -/
structure RegScrub where
  chan : Nat
  n : Nat
  next : Nat
  count : Nat
  asked : Option Asked
deriving DecidableEq, Repr

/-- The migration state of a zone (R397..R407). `built` once the pending table is built and the copy runs. `asked` is the copy's read that is
presented at the old slice's arbiter; `got`, what it read of the watermark line, and whether that line was lost with its zero-bit group;
`put`, the write of it that is presented at the spare's arbiter (R402). -/
structure Mig where
  active : Bool
  built : Bool
  slice : Nat
  spare : Nat
  wm : Nat
  asked : Option Asked
  got : Option (LineRes × Bool)
  put : Option Asked
deriving DecidableEq, Repr

/-- A reset domain (R467, R471). A fence carries the RTC at which it began. -/
inductive Dom where
  | released
  | fenced (since : Nat)
  | inReset
deriving DecidableEq, Repr

/-- The device's phase (R456, R459, R465, R430). -/
inductive Phase where
  | island      -- aon_por_n low
  | reset       -- device reset held, or waiting for brl_rst_n or the rails
  | loading     -- powered, the loader runs
  | starting    -- image applied, Acien starting (R465)
  | running
  | noImage     -- both slots failed
  | asleep      -- SLEEP (R430)
  | waking      -- SLEEP exit (R432)
deriving DecidableEq, Repr

/-- A bank move of a policy or device-state write that has not happened yet (R418, R420); `waited` when the MP write that ordered it waits for
it. -/
structure Move where
  key : Nat
  dst : BankSt
  serial : Nat
  waited : Bool
deriving DecidableEq, Repr

/-- What the next configuration load follows: a power-on, after which it zeroes the post-mortem region too (R464), the exit from a SLEEP
whose keep-set was LOST, which it reports (R424), or anything else. -/
inductive LoadAfter where
  | powerOn
  | lostKeep
  | other
deriving DecidableEq, Repr

/-- The register access that waits for its effect (R39, R73, R128). -/
inductive HubWait where
  | idle
  | region (by_ : Agent)
  | power
deriving DecidableEq, Repr

/-- An attribute-changing region write in progress (R73). -/
structure RegionChange where
  n : Nat
  val : Word
  serial : Nat
deriving DecidableEq, Repr

/-- SLEEP entry in progress (R425..R428): step, start of the step, first wake event, and the bank states of before step 4. -/
structure Entry where
  step : Nat
  since : Nat
  wake : Option (Nat × Nat)
  banks : Tab Bank
deriving DecidableEq, Repr

/-- Teardown in progress (R330). -/
structure Td where
  ctx : Nat
  queues : List Nat
deriving DecidableEq, Repr

/-- Identity fuses (R534) and optional units (R494). -/
structure Part where
  tiers : Nat
  compat : Nat
  behaviour : Nat
  rev : Nat
  linkFit : Nat
  fennel : Bool
  fold : Bool
  guarded : Bool
  force : Bool
  launch : Bool
deriving DecidableEq, Repr

/-- An instrument's report (R527). -/
inductive Report where
  | none
  | refused
  | done
  | bist (results : List BistResult)
  | lanes (slice tier : Nat) (fail : List Nat)
  | bonds (tier : Nat) (broken : List Nat)
  | key (keyHash : BitVec 384) (locked : Bool)
  | fuses (keyHash : BitVec 384) (locked : Bool) (repairs : Tab (List FuseEntry)) (part : Part)
deriving DecidableEq, Repr

/-- The registers that a TAP instruction selects (Table 14-5). -/
inductive TapReg where
  | bypass
  | idcode
  | ijtag
deriving DecidableEq, Repr

/-- What the block drives at its edge (Table 14-2); `undefined` stands for every output after R511. -/
inductive Edge where
  | rs (port tag bidx : Nat) (last : Bool) (st : Status) (lines : List LineRes) (busy : Bool)
  | wr (port tag : Nat) (st : Status) (busy : Bool)
  | kDone (c seq : Nat)
  | inv (c id : Nat) (all : Bool) (addr granules : Nat)
  | sr (c seq : Nat) (st : SyStatus) (val : Nat)
  | wk (c ctx : Nat) (st : SyStatus)
  | mbAck (c : Nat) (w : Word)
  | mpRs (st : Status) (data : Word)
  | saRq (p : SaPort) (wr : Bool) (addr len qos tag : Nat)
  | saWd (p : SaPort) (data : List Byte) (mask : Nat) (poison : Bool)
  | saCrd (p : SaPort)
  | lpOut (l win gen off : Nat) (lv poison : List Bool) (lines : List Line)
  | lpCrd (l n : Nat)
  | abortOut (l org hop : Nat)
  | esc (zone : Nat)
  | rstAckPulse
  | lovEst (w : Nat)
  | flash (cmd : Nat) (addr : Option Nat) (octal : Bool)
  | undefined (n : Nat)
deriving DecidableEq, Repr

/-- Fuses that test access programs (R531..R533). -/
structure Fuse where
  keyHash : BitVec 384
  keyLock : Bool
  repairs : Tab (List FuseEntry)
  applied : Tab (List FuseEntry)
deriving DecidableEq, Repr

/-- Input levels and the environment (Tables 12-8, 11-10, 3-7, 11-5). -/
structure Pin where
  aonPorN : Bool
  rstN : Bool
  rstReq : Bool
  zrst : List Nat
  rstAck : List Nat
  shed : Bool
  devId : Nat
  hot : List Nat
  rate : Tab Nat
  mvA : Nat
  mvB : Nat
  pcMhz : Nat
  devHold : Bool
deriving DecidableEq, Repr

/-- The levels of the loader's output signals (Table 12-3). -/
structure Xspi where
  sck : Bool
  csN : Bool
  rstN : Bool
  dqO : Nat
  dqOe : Bool
deriving DecidableEq, Repr

/-- Output levels (Tables 12-8, 11-10, 12-3). -/
structure Out where
  ready : Bool
  fatal : Bool
  rstAck : Bool
  rstReq : List Nat
  aonWake : Bool
  aonSleep : Bool
  vague : Bool
  xspi : Xspi
deriving DecidableEq, Repr

/-- INT block (Table 13-18); `raised` holds the causes raised in the present port cycle (R501). -/
structure IntBlk where
  stat : Word
  raised : Word
  en : Word
  map : List Word
deriving DecidableEq, Repr

/-- One event counter (Table 13-19). -/
structure Ctr where
  sel : Word
  flt : Word
  cnt : Nat
  hi : Nat
  snap : Nat
deriving DecidableEq, Repr

/-- EVC block (Table 13-19); `snapDue` and `clrDue`: a snapshot or a clear at the end of the present port cycle (R505). -/
structure Evc where
  run : Bool
  ovf : List Nat
  enLo : Word
  enHi : Word
  ctr : Tab Ctr
  snapDue : Bool
  clrDue : Bool
deriving DecidableEq, Repr

/-- Data ports, port rings and the accesses on their way (chapters 03, 01). -/
structure PortBlk where
  serial : Nat
  regNo : Nat
  credit : Tab Nat
  reqs : List Req
  ops : List LineOp
  parity : List ParityJob
deriving DecidableEq, Repr

/-- Queues, movers, stacks and links (chapter 08). `lpOwed` counts the credits to be returned on an inbound link, one a port cycle (R125);
`saCredit` counts the response credits that a stack or the host holds (R123; index 20 is outbound HP); `paceNow` is 1 + the rate of a
stack that is paced, and `sqNow` names the stacks quiesced, as they stand in the present port cycle (R319, R322); `saOwed` counts the response
credits still to be given, one a port cycle, and `wd` the write data beats still to be sent, the oldest first (R98, R106, R123). -/
structure MovBlk where
  q : Tab Queue
  rr : Nat
  sa : List SaReq
  saBeats : Tab (List Nat)
  td : Option Td
  lpCredit : Tab Nat
  lpGiven : Tab Nat
  lpOwed : Tab Nat
  saCredit : Tab Nat
  saOwed : Tab Nat
  wd : List WdBeat
  paceNow : Tab Nat
  sqNow : List Nat
  hotSince : Tab Nat
  sqIdle : List Nat
deriving DecidableEq, Repr

/-- Landing windows (chapter 08); `inbox` holds the beats that the landing unit has not taken, the oldest first (R37, R73, R125, R427). -/
structure LndBlk where
  win : Tab Win
  land : List Land
  next : Nat
  inbox : List LpBeat
deriving DecidableEq, Repr

/-- Sorrel (chapter 09). `dead`: its state has an uncorrectable error, whose flipped bits are those of draw `upset` (R356). -/
structure SrlBlk where
  bar : Tab Barrier
  wt : Tab Wt
  qw : Tab (Nat × Bool)
  rel : List Rel
  lock : Tab Nat
  mbx : Tab Chan
  dead : Bool
  upset : Nat
  dump : Option Nat
  tok : Nat
deriving DecidableEq, Repr

/-- What Acien's access to the error log is for (R409, Table 9-8): an entry to write, over the newest one or not, or a read. -/
inductive AcienWork where
  | log (again : Bool) (entry : Cap)
  | read (addr : Nat)
deriving DecidableEq, Repr

/-- Acien's access under way on its private path, and its result (R73, R409). -/
structure AcienJob where
  work : AcienWork
  res : Option LineRes
deriving DecidableEq, Repr

/-- Protection, lanes, scrub and migration (chapter 10). `region` is the SCRUB_REGION under way; `tagWait` names the zero-bit groups whose
reload waits for its bank, and whether the bank's copy is bad too (R267). -/
structure PrtBlk where
  cap : List Cap
  logLast : Option Cap
  lane : Tab Lane
  scrub : Tab Scrub
  scrubDone : List Nat
  passStart : Nat
  hour : Tab (Nat × Nat)
  hourStart : Nat
  mig : Tab Mig
  moved : Tab Nat
  retired : List Nat
  retLog : List Nat
  badCommitted : List Nat
  badMig : List Nat
  pendingBad : List Nat
  acien : Option AcienJob
  region : Option RegScrub
  tagWait : Tab Bool
deriving DecidableEq, Repr

/-- The output levels that are latched in SLEEP (R433): brl_ready, brl_fatal, brl_rst_ack, c_rst_req, brl_irq, and sg_hold and the
tick of each group. -/
structure Levels where
  ready : Bool
  fatal : Bool
  rstAck : Bool
  rstReq : List Nat
  irq : List Nat
  groups : List (Bool × Nat)
deriving DecidableEq, Repr

/-- Lovage (R438..R448); powers in mW, `tok` in 0.01 pJ; `paced` counts the policy wakes begun in the interval (R421). `want` is the demand of
the interval (R439); `spent`, `share`, `room` and `waits` give for each source (0..3 the groups, 4 the device profile) what has been admitted
in the interval in 0.01 pJ, its share of the budget, the budget of all traffic up to its row of Table 11-7, and
the intervals in a row in which it presented work and was held throughout (R480); `short` names the sources whose work Lovage has turned away
in the interval, and `carry` what a fixed-lag group took beyond its share before its hold began, which the next interval is charged with (log
115); `hot` names the stacks whose pacing Lovage has been told (R321); `extra` is the energy of the ballast scrub reads of the interval in
0.01 pJ (R442). -/
structure LovBlk where
  env : Nat
  quiet : Nat
  wait : Nat
  plan : Option Nat
  tok : Nat
  scrub : Nat
  act : Nat
  est : Nat
  held : List Nat
  paced : Nat
  want : Nat
  spent : Tab Nat
  share : Tab Nat
  room : Tab Nat
  waits : Tab Nat
  short : List Nat
  carry : Tab Nat
  hot : List Nat
  extra : Nat
deriving DecidableEq, Repr

/-- What SLEEP entry saves in step 3 (Table 11-2), Sorrel's state and every register of the register map; groups, counters, streams, Lovage's
levels, captured events and lane states are held in registers. The save area's copy is valid while it is there (R425, R428, R432). -/
structure Saved where
  regs : Tab Word
  int : IntBlk
  evc : Evc
  grp : Tab Grp
  chv : Tab Chv
  srl : SrlBlk
  lfsrPort : Tab Nat
  lfsrQ : Tab Nat
  lfsrHp : Nat
  mov : MovBlk
  lnd : LndBlk
  lov : LovBlk
  cap : List Cap
  logLast : Option Cap
  lane : Tab Lane
deriving DecidableEq, Repr

/-- Banks and SLEEP (chapter 11). `saved` is the save area's image while it is valid; `latch` holds the output levels from step 5 to the
release of isolation; `saveCrc` is the CRC-32 of that image, which the always-on island keeps (R425); `warnDue` names the supplies whose
warnings came in SLEEP and are still to be raised (R436). -/
structure PwrBlk where
  bank : Tab Bank
  freeze : List Nat
  okSinceA : Nat
  okSinceB : Nat
  entry : Option Entry
  moves : List Move
  idleState : Bool
  keepSplit : Word
  keepKept : Bool
  vretLp : Bool
  saved : Option Saved
  saveCrc : Option (BitVec 32)
  latch : Option Levels
  warnDue : List Nat
deriving DecidableEq, Repr

/-- Phase, domains and resets (chapter 12); `resetReq` is the RTC at a requested device reset that drains (R472). `own`: line writes of the
crash record that wait for a bank, a bundle or a copy, the oldest first (R475). `acienRs` is the word that Acien's last register read
returned. -/
structure DevBlk where
  run : Phase
  dom : Tab Dom
  resetReq : Option Nat
  seen : List Nat
  hub : HubWait
  heldWrites : List (Agent × Nat × Word)
  needPower : Bool
  load : LoadAfter
  own : List (Nat × Line × Nat)
  acienRs : Option Word
deriving DecidableEq, Repr

/-- The states of the TAP controller (R525; IEEE 1149.1). -/
inductive TapSt where
  | reset | idle | selectDr | captureDr | shiftDr | exit1Dr | pauseDr | exit2Dr | updateDr | selectIr | captureIr | shiftIr | exit1Ir | pauseIr
  | exit2Ir | updateIr
deriving DecidableEq, Repr

/-- The TAP and the IEEE 1687 network's segment insertion bits (R525..R527): controller state, the shift part of the instruction register, the
selected data register as it shifts, and brl_tdo; the open segments of the zones, and of their slices. -/
structure Tap where
  st : TapSt
  irShift : Nat
  drShift : Nat
  tdo : Bool
  zones : List Nat
  slices : List Nat
deriving DecidableEq, Repr

/-- Everything but tensor memory and the queue. -/
structure Ctl where
  part : Part
  fuse : Fuse
  pin : Pin
  out : Out
  /-- outputs driven since the last end of a port cycle began -/
  edge : List Edge
  pc : Nat
  rtc : Nat
  regs : Tab Word
  int : IntBlk
  evc : Evc
  port : PortBlk
  grp : Tab Grp
  frPace : Bool
  chv : Tab Chv
  lfsrPort : Tab Nat
  lfsrQ : Tab Nat
  lfsrHp : Nat
  mov : MovBlk
  lnd : LndBlk
  srl : SrlBlk
  prt : PrtBlk
  pwr : PwrBlk
  lov : LovBlk
  dev : DevBlk
  region : Option RegionChange
  tapIr : Nat
  tap : Tap
  report : Report
  free : Nat
deriving DecidableEq, Repr

/-- The state of the block (INVENTORY.md, State). -/
structure State where
  store : Store
  ctl : Ctl
  pending : List Instr
deriving DecidableEq, Repr

/-- Reasons to stop with a fault. Brural has no exception and no step of it stops, so no meaning raises one; the type has
one reason that nothing raises (safe). -/
inductive Fault where
  | never
deriving DecidableEq, Repr

/-- Reasons to refuse a command. `notModelled` is raised by an arm of `exec` whose row has no meaning; no arm does (safe). -/
inductive Refusal where
  | notModelled (mnemonic : String)
deriving DecidableEq, Repr

/-- An empty tensor memory: every zero bit set (R268). -/
def Store.empty : Store := ⟨[], [], [], none, []⟩

/-- Rest values of the tables. -/
def Bank.rest : Bank := ⟨.on, false, 0, false, false⟩
def Grp.rest : Grp := ⟨0, true, 0, none, none, false, 0, none, 0, 0, false, [], 0, false⟩
def Chv.rest : Chv := ⟨0, [], [], [], [], [], [], []⟩
def Queue.rest : Queue := ⟨0, 0, none, none, none, 0, none, false, none, false, []⟩
def Win.rest : Win := ⟨false, 0, 0, false, 0⟩
def Barrier.rest : Barrier := ⟨0, 0, 0, 0, true, .disarmed, 0x3FF, false, false⟩
def Chan.rest : Chan := ⟨0, false, false, false, 0⟩
def Lane.rest : Lane := ⟨[], [], false, false, [], 0, 0⟩
def Scrub.rest : Scrub := ⟨false, [], 0, none⟩
def Mig.rest : Mig := ⟨false, false, 0, 0, 0, none, none, none⟩
def Ctr.rest : Ctr := ⟨0, 0xF000FFFF#32, 0, 0, 0⟩

/-- The reference Brural-6 (R3, log 3). -/
def Part.reference : Part := ⟨3, 1, 4, 0, 0xFFF, true, true, true, true, true⟩

/-- INT reset values (Table 13-18). -/
def IntBlk.reset : IntBlk := ⟨0, 0, 0x000003#32, [0x22211100#32, 0x54443333#32, 0x77766665#32]⟩

/-- EVC reset values (Table 13-19). -/
def Evc.reset : Evc := ⟨true, [], 0, 0, [], false, false⟩

/-- The block right after a power-on reset, before the loader runs: every register at the reset value of its table, every
zero bit set, ports closed, sg_hold and c_rst_req 1. -/
def Ctl.reset : Ctl where
  part := Part.reference
  fuse := ⟨0, false, [], []⟩
  pin := ⟨true, true, false, [], [], false, 0, [], [], 750, 750, 2000, false⟩
  out := ⟨false, false, false, [0, 1, 2, 3, 4, 5, 6, 7, 8, 9, 10, 11, 12, 13, 14, 15], false, false, false, ⟨false, true, false, 0, false⟩⟩
  edge := []
  pc := 0
  rtc := 0
  regs := []
  int := IntBlk.reset
  evc := Evc.reset
  port := ⟨0, 0, [], [], [], []⟩
  grp := []
  frPace := false
  chv := []
  lfsrPort := []
  lfsrQ := []
  lfsrHp := 0x00490048
  mov := ⟨[], 0, [], [], none, [], [], [], [], [], [], [], [], [], []⟩
  lnd := ⟨[], [], 0, []⟩
  srl := ⟨[], [], [], [], [], [], false, 0, none, 0⟩
  prt := ⟨[], none, [], [], [], 0, [], 0, [], [], [], [], [], [], [], none, none, []⟩
  pwr := ⟨[], [], 0, 0, none, [], false, 0, false, false, none, none, none, []⟩
  lov := ⟨0, 0, 0, none, 0, 0, 0, 0, [], 0, 0, [], [], [], [], [], [], [], 0⟩
  dev := ⟨.loading, [], none, [], .idle, [], false, .powerOn, [], none⟩
  region := none
  tapIr := 0x01
  tap := ⟨.reset, 1, 0, false, [], []⟩
  report := .none
  free := 0

/-- The machine right after reset. -/
def State.reset : State := ⟨Store.empty, Ctl.reset, []⟩

end Sys2Proof.Machine
end

