-- ==== Sys2Proof/Machine/Tab.lean ====
section
/-! DEFINITION. Sparse tables in canonical form and the bit-field helpers: every other file of the machine reads and writes
its tables and its register fields through these. -/

namespace Sys2Proof.Machine

/-- The listed value of an index. -/
def tabFind {α : Type} (t : Tab α) (k : Nat) : Option α :=
  match t with
  | [] => none
  | (j, v) :: r => if j = k then some v else tabFind r k

/-- The value of an index, the table's rest value when unlisted. -/
def tabGet {α : Type} (d : α) (t : Tab α) (k : Nat) : α := (tabFind t k).getD d

/-- Insert or replace, keeping the indices rising. -/
def tabIns {α : Type} (k : Nat) (v : α) (t : Tab α) : Tab α :=
  match t with
  | [] => [(k, v)]
  | (j, w) :: r => if k < j then (k, v) :: (j, w) :: r else if k = j then (k, v) :: r else (j, w) :: tabIns k v r

/-- Remove an index. -/
def tabDel {α : Type} (k : Nat) (t : Tab α) : Tab α := t.filter (fun p => p.1 ≠ k)

/-- Write an index; writing the rest value removes the entry, so that equal tables are equal lists. -/
def tabPut {α : Type} [DecidableEq α] (d : α) (k : Nat) (v : α) (t : Tab α) : Tab α :=
  if v = d then tabDel k t else tabIns k v t

/-- Update an index with a function of its present value. -/
def tabMod {α : Type} [DecidableEq α] (d : α) (k : Nat) (f : α → α) (t : Tab α) : Tab α :=
  tabPut d k (f (tabGet d t k)) t

/-- The indices are strictly rising. -/
def tabSorted {α : Type} (t : Tab α) : Bool :=
  match t with
  | [] => true
  | (j, _) :: r => r.all (fun p => decide (j < p.1)) && tabSorted r

/-- The canonical form: strictly rising indices, and no entry equal to the rest value. -/
def tabWf {α : Type} [DecidableEq α] (d : α) (t : Tab α) : Bool :=
  tabSorted t && t.all (fun p => decide (p.2 ≠ d))

/-- Bits `[lo+w-1:lo]` of a register word, as a number. -/
def bits (v : Word) (lo w : Nat) : Nat := (v.toNat >>> lo) % 2 ^ w

/-- One bit of a register word. -/
def bit (v : Word) (i : Nat) : Bool := v.toNat.testBit i

/-- A register word with bits `[lo+w-1:lo]` replaced by the low bits of `x`. -/
def setBits (v : Word) (lo w x : Nat) : Word :=
  let m : Word := BitVec.ofNat 32 ((2 ^ w - 1) <<< lo)
  (v &&& ~~~m) ||| (BitVec.ofNat 32 ((x % 2 ^ w) <<< lo) &&& m)

/-- A register word with one bit replaced. -/
def setBit (v : Word) (i : Nat) (b : Bool) : Word := setBits v i 1 (if b then 1 else 0)

/-- Bits `[lo+w-1:lo]` of a number. -/
def nbits (n lo w : Nat) : Nat := (n >>> lo) % 2 ^ w

/-- Add and stop at the largest value of `w` bits. -/
def satAdd (w n k : Nat) : Nat := min (2 ^ w - 1) (n + k)

/-- Round up the quotient. -/
def ceilDiv (a b : Nat) : Nat := (a + b - 1) / b

/-- Little-endian value of a list of bytes. -/
def leNat (bs : List Byte) : Nat :=
  match bs with
  | [] => 0
  | b :: r => b.toNat + 256 * leNat r

/-- The low `n` bytes of a number, little-endian. -/
def leBytes (n v : Nat) : List Byte :=
  match n with
  | 0 => []
  | k + 1 => BitVec.ofNat 8 v :: leBytes k (v / 256)

/-- Replace the element at an index of a list. -/
def listSet {α : Type} (l : List α) (i : Nat) (v : α) : List α := l.set i v

/-- The number of bits of a number: 0 for 0, else floor(log2) + 1. -/
def bitLen (n : Nat) : Nat := if n = 0 then 0 else Nat.log2 n + 1

/-- Add an element that is not there yet. -/
def insertNew (x : Nat) (l : List Nat) : List Nat := if x ∈ l then l else l ++ [x]

end Sys2Proof.Machine
end

