-- ==== Sys2Proof/Machine/Regs.lean ====
section
/-! DEFINITION. Registers that are kept as words: their offsets from 0xF_0000_0000 (R498), reset values and writable fields as the
register tables give them, and the access codes of R12 with the treatment of reserved encodings of R14. -/

namespace Sys2Proof.Machine

/-- Offset of register `o` of block `i` (Table 13-16). -/
def rg (i o : Nat) : Nat := 0x100000 + 0x10000 * i + o

def brlCtrl : Nat := rg 0 0x00
def brlCfg : Nat := rg 0 0x10
def brlUnitEn : Nat := rg 0 0x14
def brlLock : Nat := rg 0 0x18
def brlLoadSt : Nat := rg 0 0x20
def brlImgVer : Nat := rg 0 0x24
def brlRstHold : Nat := rg 0 0x30
def brlRstLat : Nat := rg 0 0x38
def brlRstCause : Nat := rg 0 0x3C
def brlIsol : Nat := rg 0 0x44
def brlAbortSt : Nat := rg 0 0x54
def thyCfg : Nat := rg 1 0x00
def thyLag (g : Nat) : Nat := rg 1 (0x10 + 4 * g)
def thyProf : Nat := rg 1 0x20
def thyGmap (c : Nat) : Nat := rg 1 (0x40 + 4 * c)
def thyLong (g : Nat) : Nat := rg 1 (0x140 + 8 * g)
def thyLongAt (g : Nat) : Nat := rg 1 (0x144 + 8 * g)
def thySlip (g k : Nat) : Nat := rg 1 (0x200 + 0x40 * g + 4 * k)
def chvCfg : Nat := rg 2 0x00
def chvErr : Nat := rg 2 0x08
def chvErrInv : Nat := rg 2 0x0C
def chvKend (c : Nat) : Nat := rg 2 (0x104 + 0x10 * c)
def chvInv (c : Nat) : Nat := rg 2 (0x108 + 0x10 * c)
def srlCfg : Nat := rg 3 0x00
def srlFaultSt : Nat := rg 3 0x04
def srlWfull (c : Nat) : Nat := rg 3 (0x100 + 4 * c)
def srlRlat (k : Nat) : Nat := rg 3 (0x200 + 4 * k)
def mbxDb : Nat := rg 5 0x200
def mbxDbMask : Nat := rg 5 0x204
def fenSeed (z : Nat) : Nat := rg 6 (4 * z)
def fenQseed : Nat := rg 6 0x40
def rgnSplit : Nat := rg 7 0x00
def rgnEnt (n : Nat) : Nat := rg 7 (0x8000 + 4 * n)
def movTdSt : Nat := rg 8 0x14
def movErr (k : Nat) : Nat := rg 8 (0x20 + 4 * k)
def movSq : Nat := rg 8 0x40
def movHotLat : Nat := rg 8 0x4C
def movPaceSt (s : Nat) : Nat := rg 8 (0x80 + 4 * s)
def movQ (q o : Nat) : Nat := rg 8 (0x1000 + 0x40 * q + o)
def movQctrl (q : Nat) : Nat := movQ q 0x10
def movQtail (q : Nat) : Nat := movQ q 0x14
def lndLate : Nat := rg 9 0x00
def lndOor : Nat := rg 9 0x04
def lndRefused : Nat := rg 9 0x08
def lndW (w o : Nat) : Nat := rg 9 (0x1000 + 0x20 * w + o)
def lndWctrl (w : Nat) : Nat := lndW w 0x14
def migSt (z : Nat) : Nat := rg 10 (0x10 + 4 * z)
def prtCe : Nat := rg 11 0x00
def prtUe : Nat := rg 11 0x04
def prtRbld : Nat := rg 11 0x08
def prtUrbld : Nat := rg 11 0x0C
def prtEv : Nat := rg 11 0x10
def prtFatal : Nat := rg 11 0x14
def prtScrubCfg : Nat := rg 11 0x20
def prtScrubSt : Nat := rg 11 0x24
def prtLaneCfg : Nat := rg 11 0x30
def prtPolicy : Nat := rg 11 0x34
def prtLogWp : Nat := rg 11 0x40
def prtCapLost : Nat := rg 11 0x44
def pwrCtrl : Nat := rg 12 0x00
def pwrSt : Nat := rg 12 0x04
def pwrSleepCfg : Nat := rg 12 0x0C
def pwrSleepCnt : Nat := rg 12 0x10
def pwrSleepLast : Nat := rg 12 0x14
def pwrEv : Nat := rg 12 0x18
def pwrGrp (z : Nat) : Nat := rg 12 (0x40 + 4 * z)
def pwrKeep (z : Nat) : Nat := rg 12 (0xC0 + 4 * z)
def pwrIdleUs : Nat := rg 12 0x100
def pwrAlarmLo : Nat := rg 12 0x110
def pwrAlarmHi : Nat := rg 12 0x114
def pwrRtcHi : Nat := rg 12 0x11C
def pwrSupCfg : Nat := rg 12 0x120
def pwrSupSt : Nat := rg 12 0x124
def pwrVret : Nat := rg 12 0x128
def lovCfg : Nat := rg 13 0x00
def lovCap : Nat := rg 13 0x04
def lovLaunch : Nat := rg 13 0x08
def lovQuiet : Nat := rg 13 0x0C
def lovTok (k : Nat) : Nat := rg 13 (0x40 + 4 * k)
def lovLeakOn : Nat := rg 13 0x60
def lovLeakRet : Nat := rg 13 0x64
def lovLeakBase : Nat := rg 13 0x68

/-- Bits of the fitted optional units, as BRL_UNIT_EN.unit orders them. -/
def Part.units (p : Part) : Nat :=
  (if p.fennel then 1 else 0) + (if p.fold then 2 else 0) + (if p.guarded then 4 else 0) + (if p.force then 8 else 0)
    + (if p.launch then 16 else 0)

/-- Reset value of the register at offset `o` from its block base. -/
def resetIn (p : Part) (i o : Nat) : Word :=
  match i with
  | 0 =>
    if o = 0x10 then 0x800F0064#32
    else if o = 0x14 then BitVec.ofNat 32 (p.linkFit <<< 16 + p.units)
    else if o = 0x20 then 0x0000FFFF#32
    else 0
  | 1 =>
    if o = 0x00 then 0x080017D0#32
    else if o = 0x10 ∨ o = 0x14 ∨ o = 0x18 ∨ o = 0x1C then 0x1201C040#32
    else 0
  | 2 => if o = 0x00 then 0x20203010#32 else 0
  | 3 => if o = 0x00 then 1 else if o = 0x04 then 0x03FF0000#32 else 0
  | 6 => if o ≤ 0x40 then 1 else 0
  | 7 => if o = 0x00 then (if p.tiers = 1 then 0x002#32 else if p.tiers = 2 then 0x022#32 else 0x222#32) else 0
  | 8 => if 0x1000 ≤ o ∧ o < 0x2200 ∧ o % 0x40 = 0x10 then 0x00000400#32 else 0
  | 9 => if 0x1000 ≤ o ∧ o < 0x3000 ∧ o % 0x20 = 0x14 then 0x003FF000#32 else 0
  | 11 =>
    if o = 0x20 then 0x118#32
    else if o = 0x30 then 0x03C30A10#32
    else if o = 0x34 then 0x03100100#32
    else 0
  | 12 =>
    if o = 0x0C then 0x064#32
    else if o = 0x100 then 0x0064#32
    else if o = 0x120 then 0x0A#32
    else if o = 0x124 then 0x0000FFFF#32
    else 0
  | 13 =>
    if o = 0x00 then 0xD0080008#32
    else if o = 0x04 then BitVec.ofNat 32 (Config.capW p.tiers <<< 16 + Config.capW p.tiers)
    else if o = 0x08 then 0x01004010#32
    else if o = 0x0C then 0x020#32
    else if 0x40 ≤ o ∧ o < 0x60 then BitVec.ofNat 32 (Config.tokens.getD ((o - 0x40) / 4) 0)
    else if o = 0x60 then BitVec.ofNat 32 (Config.onUw p.tiers)
    else if o = 0x64 then BitVec.ofNat 32 (Config.retUw p.tiers)
    else if o = 0x68 then BitVec.ofNat 32 (85 <<< 16 + 1000)
    else 0
  | _ => 0

/-- Reset value of the register at an offset from 0xF_0000_0000. -/
def regReset (p : Part) (o : Nat) : Word := resetIn p ((o - 0x100000) / 0x10000) (o % 0x10000)

/-- What a register in reset reads (R128): its reset values; a barrier is frozen, DISARMED, without a signaller. -/
def resetWord (p : Part) (o : Nat) : Word :=
  let b := o % 0x10000
  if (o - 0x100000) / 0x10000 = 3 ∧ 0x8000 ≤ b ∧ b < 0xE800 then
    let n := (b - 0x8000) / 0x20
    if b % 0x20 = 0 then BitVec.ofNat 32 ((if n < 768 then n / 48 else 0x1F) <<< 8)
    else if b % 0x20 = 4 then 0x01100000#32
    else if b % 0x20 = 0x18 then 0x3FF#32
    else 0
  else regReset p o

/-- The stored word of a register. -/
def reg (c : Ctl) (o : Nat) : Word := tabGet (regReset c.part o) c.regs o

/-- Store a register word; the reset value leaves nothing listed. -/
def setReg (o : Nat) (v : Word) (c : Ctl) : Ctl := { c with regs := tabPut (regReset c.part o) o v c.regs }

/-- Change a register word by a function of its present value. -/
def modReg (o : Nat) (f : Word → Word) (c : Ctl) : Ctl := setReg o (f (reg c o)) c

/-- Set one bit of a register. -/
def raiseBit (o i : Nat) (c : Ctl) : Ctl := modReg o (fun v => setBit v i true) c

/-- Add one to a field of `w` bits at `lo`, stopping at its largest value. -/
def bumpSat (o lo w : Nat) (c : Ctl) : Ctl := modReg o (fun v => setBits v lo w (satAdd w (bits v lo w) 1)) c

/-- Add `n` to a field of `w` bits at `lo`, modulo 2^w. -/
def bumpMod (o lo w n : Nat) (c : Ctl) : Ctl := modReg o (fun v => setBits v lo w (bits v lo w + n)) c

/-- Return every register with offset in `[lo, hi)` to its reset value, but those that `keep` names. -/
def resetRegs (lo hi : Nat) (keep : Nat → Bool) (c : Ctl) : Ctl :=
  { c with regs := c.regs.filter (fun p => decide (p.1 < lo ∨ hi ≤ p.1) || keep p.1) }

/-- Access codes of Table 0-4. -/
inductive Access where
  | ro | rw | rwl | w1c | w1s | wo
deriving DecidableEq, Repr

/-- A writable field: lowest bit, width, access code, and which encodings are not reserved. -/
structure Field where
  lo : Nat
  w : Nat
  acc : Access
  legal : Nat → Bool

/-- A field without reserved encodings. -/
def fld (lo w : Nat) (acc : Access) : Field := ⟨lo, w, acc, fun _ => true⟩

/-- The legal lags of R138 and R159. -/
def lagLegal (v : Nat) : Bool := decide (v % 8 = 0 ∧ 8 ≤ v ∧ v ≤ 352)

/-- The event sources of Table 13-20, and the reserved encodings of EVC_SEL.src. -/
def sourceIds : List (Nat × Nat) :=
  [(0x00, 0x0A), (0x0E, 0x0F), (0x10, 0x12), (0x18, 0x1E), (0x20, 0x35), (0x38, 0x43), (0x48, 0x4C), (0x50, 0x60), (0x68, 0x78),
    (0x80, 0x8F), (0x98, 0x9E)]
def srcLegal (v : Nat) : Bool := sourceIds.any (fun r => decide (r.1 ≤ v ∧ v ≤ r.2))

/-- The writable fields of the register at offset `o` of block `i`; the empty list for every offset without one. The fields of a
tier, a pool or a unit that is not fitted are not among them: they read 0 and ignore writes (R15). -/
def fieldsIn (p : Part) (i o : Nat) : List Field :=
  match i with
  | 0 =>
    if o = 0x00 then [fld 0 1 .rw]
    else if o = 0x10 then
      [fld 31 1 .rwl, ⟨28, 2, .rwl, fun v => decide (v < 2)⟩, ⟨26, 2, .rwl, fun v => decide (v < 2)⟩, fld 16 4 .rwl,
        ⟨0, 16, .rwl, fun v => decide (v ≠ 0)⟩]
    else if o = 0x14 then [fld 16 12 .rwl, fld 0 5 .rwl]
    else if o = 0x30 then [fld 0 20 .rw]
    else if o = 0x38 then [fld 0 20 .w1c]
    else if o = 0x40 then [fld 0 1 .wo]
    else if o = 0x44 then [fld 0 16 .w1c]
    else if o = 0x50 then [fld 0 1 .wo]
    else if o = 0x54 then [fld 31 1 .w1c]
    else []
  | 1 =>
    if o = 0x00 then
      [⟨24, 4, .rwl, fun v => decide (v ≠ 0)⟩, fld 12 1 .rwl, ⟨0, 12, .rwl, fun v => decide (1200 ≤ v ∧ v ≤ 2400)⟩]
    else if o = 0x10 ∨ o = 0x14 ∨ o = 0x18 ∨ o = 0x1C then
      [⟨20, 10, .rwl, lagLegal⟩, ⟨10, 10, .rwl, lagLegal⟩, ⟨0, 10, .rwl, lagLegal⟩]
    else if o = 0x20 then
      [⟨8, 2, .rwl, fun v => decide (v < 3)⟩, ⟨6, 2, .rwl, fun v => decide (v < 3)⟩, ⟨4, 2, .rwl, fun v => decide (v < 3)⟩,
        ⟨2, 2, .rwl, fun v => decide (v < 3)⟩, ⟨0, 2, .rwl, fun v => decide (v < 3)⟩]
    else if 0x40 ≤ o ∧ o < 0x80 ∧ o % 4 = 0 then [fld 0 11 .rwl]
    else if o = 0x1F0 then [fld 0 4 .wo]
    else []
  | 2 =>
    if o = 0x00 then
      [⟨28, 4, .rwl, fun v => decide (v ≠ 0)⟩, ⟨16, 8, .rwl, fun v => decide (v ≠ 0)⟩,
        ⟨8, 7, .rwl, fun v => decide (16 ≤ v ∧ v ≤ 64)⟩, ⟨0, 8, .rwl, fun v => decide (v ≠ 0)⟩]
    else if o = 0x08 then [fld 0 32 .w1c]
    else if o = 0x0C then [fld 0 16 .w1c]
    else []
  | 3 =>
    if o = 0x00 then [⟨0, 2, .rwl, fun v => decide (v < 3)⟩]
    else if o = 0x04 then [fld 31 1 .w1c]
    else if o = 0x08 then [fld 0 1 .wo]
    else if 0x200 ≤ o ∧ o < 0x268 ∧ o % 4 = 0 then [fld 0 32 .w1c]
    else if 0x8000 ≤ o ∧ o < 0xE800 ∧ o % 0x20 = 0 then [fld 16 2 .rw, fld 0 8 .rw]
    else if 0x8000 ≤ o ∧ o < 0xE800 ∧ o % 0x20 = 0x1C then [fld 29 3 .wo, fld 0 16 .wo]
    else []
  | 4 => if o < 0x200 ∧ o % 4 = 0 then [fld 0 5 .rw] else []
  | 5 =>
    if o < 0x120 ∧ o % 16 = 0 then [fld 0 32 .rw]
    else if o < 0x120 ∧ o % 16 = 4 then [fld 1 2 .w1c]
    else if o < 0x120 ∧ o % 16 = 8 then [fld 0 32 .rw]
    else if o = 0x200 then [fld 18 14 .w1s]
    else if o = 0x204 then [fld 0 32 .rw]
    else if o = 0x208 then [fld 18 14 .wo]
    else []
  | 6 =>
    if o < 0x40 ∧ o % 4 = 0 then [⟨0, 32, .rwl, fun v => decide (v ≠ 0)⟩]
    else if o = 0x40 then [fld 0 32 .rwl]
    else if o = 0xC0 then [fld 0 18 .wo]
    else []
  | 7 =>
    if o = 0x00 then
      [⟨0, 3, .rwl, fun v => decide (v < 4)⟩] ++ (if 2 ≤ p.tiers then [⟨4, 3, .rwl, fun v => decide (v < 5)⟩] else [])
        ++ (if 3 ≤ p.tiers then [⟨8, 3, .rwl, fun v => decide (v < 5)⟩] else [])
    else if 0x8000 ≤ o ∧ o % 4 = 0 then [fld 16 8 .rw, fld 8 2 .rw]
    else []
  | 8 =>
    if o = 0x10 then [fld 0 9 .wo]
    else if o = 0x20 ∨ o = 0x24 then [fld 0 32 .w1c]
    else if o = 0x28 then [fld 0 8 .w1c]
    else if o = 0x40 then [fld 0 20 .rw]
    else if o = 0x4C then [fld 0 20 .w1c]
    else if 0x1000 ≤ o ∧ o < 0x2200 then
      if o % 0x40 = 0x00 then [fld 6 26 .rw]
      else if o % 0x40 = 0x04 then [fld 31 1 .rw, fld 0 16 .rw]
      else if o % 0x40 = 0x08 then [fld 4 28 .rw]
      else if o % 0x40 = 0x0C then [fld 31 1 .rw, fld 0 16 .rw]
      else if o % 0x40 = 0x10 then
        [fld 24 8 .rw, fld 16 4 .rw, ⟨8, 4, .rw, fun v => decide (4 ≤ v ∧ v ≤ 12)⟩, fld 0 1 .rw]
      else if o % 0x40 = 0x14 then [fld 0 16 .rw]
      else []
    else []
  | 9 =>
    if 0x1000 ≤ o ∧ o < 0x3000 then
      if o % 0x20 = 0x00 then [fld 6 26 .rw]
      else if o % 0x20 = 0x04 then [fld 0 4 .rw]
      else if o % 0x20 = 0x08 then [fld 6 26 .rw]
      else if o % 0x20 = 0x0C then [fld 6 26 .rw]
      else if o % 0x20 = 0x14 then [fld 24 8 .rw, ⟨12, 10, .rw, fun v => decide (v < 832 ∨ v = 0x3FF)⟩, fld 1 2 .wo]
      else []
    else []
  | 10 =>
    if o = 0x00 then [fld 31 1 .wo, fld 0 7 .wo]
    else if 0x10 ≤ o ∧ o < 0x50 ∧ o % 4 = 0 then [fld 29 1 .w1c]
    else []
  | 11 =>
    if o = 0x10 then [fld 0 8 .w1c]
    else if o = 0x20 then [fld 8 1 .rwl, ⟨0, 8, .rwl, fun v => decide (v ≠ 0)⟩]
    else if o = 0x30 then
      [fld 20 8 .rwl, ⟨16, 4, .rwl, fun v => decide (2 ≤ v)⟩, ⟨8, 8, .rwl, fun v => decide (v ≠ 0)⟩,
        ⟨0, 8, .rwl, fun v => decide (v ≠ 0)⟩]
    else if o = 0x34 then [fld 25 1 .rwl, fld 24 1 .rwl, fld 16 8 .rwl, fld 0 16 .rwl]
    else if o = 0x40 then [fld 0 32 .rw]
    else []
  | 12 =>
    if o = 0x00 then [fld 16 16 .rw, fld 0 2 .wo]
    else if o = 0x04 then [fld 30 1 .w1c]
    else if o = 0x08 then [fld 0 1 .wo]
    else if o = 0x0C then [⟨12, 4, .rwl, fun v => decide (v = 0)⟩, ⟨0, 12, .rwl, fun v => decide (v ≠ 0)⟩]
    else if o = 0x18 then [fld 0 4 .w1c]
    else if 0x40 ≤ o ∧ o < 0x80 ∧ o % 4 = 0 then [fld 0 (4 * p.tiers) .rw]
    else if 0xC0 ≤ o ∧ o < 0x100 ∧ o % 4 = 0 then [fld 0 (2 * p.tiers) .rw]
    else if o = 0x100 then [⟨0, 16, .rw, fun v => decide (v ≠ 0)⟩]
    else if o = 0x110 then [fld 0 32 .rw]
    else if o = 0x114 then [fld 31 1 .rw, fld 0 16 .rw]
    else if o = 0x120 then [⟨0, 8, .rwl, fun v => decide (v ≠ 0)⟩]
    else if o = 0x124 then [fld 31 1 .w1c, fld 24 3 .w1c]
    else if o = 0x128 then [fld 31 1 .w1c]
    else []
  | 13 =>
    if o = 0x00 then
      [fld 31 1 .rwl, fld 30 1 .rwl, fld 29 1 .rwl, fld 28 1 .rwl, ⟨16, 7, .rwl, fun v => decide (1 ≤ v ∧ v ≤ 80)⟩,
        ⟨0, 7, .rwl, fun v => decide (1 ≤ v ∧ v ≤ 80)⟩]
    else if o = 0x04 then [fld 16 10 .rwl, ⟨0, 10, .rwl, fun v => decide (v ≤ Config.capW p.tiers)⟩]
    else if o = 0x08 then [fld 24 8 .rwl, ⟨8, 10, .rwl, fun v => decide (v ≠ 0)⟩, fld 0 8 .rwl]
    else if o = 0x0C then [fld 0 10 .rwl]
    else if 0x40 ≤ o ∧ o < 0x60 ∧ o % 4 = 0 then [fld 0 16 .rwl]
    else if o = 0x60 ∨ o = 0x64 then [fld 0 16 .rwl]
    else if o = 0x68 then [fld 16 8 .rwl, fld 0 16 .rwl]
    else []
  | 14 =>
    if o = 0x00 then [fld 0 1 .rw, fld 1 2 .wo]
    else if o = 0x08 ∨ o = 0x0C then [fld 0 32 .w1c]
    else if o = 0x10 ∨ o = 0x14 then [fld 0 32 .rw]
    else if 0x100 ≤ o ∧ o < 0x500 ∧ o % 16 = 0 then [fld 30 2 .rw, fld 16 8 .rw, ⟨0, 8, .rw, srcLegal⟩]
    else if 0x100 ≤ o ∧ o < 0x500 ∧ o % 16 = 4 then [fld 28 4 .rw, fld 27 1 .rw, fld 16 8 .rw, fld 0 16 .rw]
    else []
  | 15 =>
    if o = 0x00 then [fld 0 24 .w1c]
    else if o = 0x04 then [fld 0 24 .rw]
    else if o = 0x0C then [fld 0 24 .wo]
    else if o = 0x10 ∨ o = 0x14 ∨ o = 0x18 then
      [fld 0 3 .rw, fld 4 3 .rw, fld 8 3 .rw, fld 12 3 .rw, fld 16 3 .rw, fld 20 3 .rw, fld 24 3 .rw, fld 28 3 .rw]
    else []
  | _ => []

/-- The writable fields of the register at an offset from 0xF_0000_0000; a reserved offset has none (R13). -/
def fieldsOf (p : Part) (o : Nat) : List Field :=
  if o < 0x100000 ∨ 0x200000 ≤ o ∨ o % 4 ≠ 0 then [] else fieldsIn p ((o - 0x100000) / 0x10000) (o % 0x10000)

/-- One field of a register write (R12, R14). `dflt` is the register's reset word. -/
def writeField (lock : Bool) (dflt v cur : Word) (f : Field) : Word :=
  let x := bits v f.lo f.w
  let y := if f.legal x then x else bits dflt f.lo f.w
  match f.acc with
  | .ro => cur
  | .wo => cur
  | .rw => setBits cur f.lo f.w y
  | .rwl => if lock then cur else setBits cur f.lo f.w y
  | .w1c => setBits cur f.lo f.w (bits cur f.lo f.w &&& (2 ^ f.w - 1 - x))
  | .w1s => setBits cur f.lo f.w (bits cur f.lo f.w ||| x)

/-- A whole register write over its fields. -/
def writeFields (lock : Bool) (dflt v cur : Word) (fs : List Field) : Word := fs.foldl (writeField lock dflt v) cur

/-- The configuration lock (R464). -/
def locked (c : Ctl) : Bool := bit (reg c brlLock) 0

/-- The write of `v` to a register that is a stored word: its fields under their access codes. -/
def writeStored (o : Nat) (v : Word) (c : Ctl) : Ctl :=
  setReg o (writeFields (locked c) (regReset c.part o) v (reg c o) (fieldsOf c.part o)) c

/-- Whether the part fits and BRL_UNIT_EN enables optional unit `i` (R466). -/
def unitOn (c : Ctl) (i : Nat) : Bool := c.part.units.testBit i && bit (reg c brlUnitEn) i

def fennelOn (c : Ctl) : Bool := unitOn c 0
def foldOn (c : Ctl) : Bool := unitOn c 1
def guardedOn (c : Ctl) : Bool := unitOn c 2
def forceOn (c : Ctl) : Bool := unitOn c 3
def launchOn (c : Ctl) : Bool := unitOn c 4

/-- Whether link `l` is fitted and enabled. -/
def linkOn (c : Ctl) (l : Nat) : Bool := c.part.linkFit.testBit l && bit (reg c brlUnitEn) (16 + l)

end Sys2Proof.Machine
end

