-- ==== Sys2Proof/Machine/Addr.lean ====
section
/-! DEFINITION. Tensor addresses: the windows of Table 2-1, the pool split, the spread and near hashes, the bank fold, the carve-outs,
the region table and the redirect to physical slices (R18, R42..R71, R399). -/

namespace Sys2Proof.Machine

/-- A window of Table 2-1 that holds the line of a canonical address. -/
inductive Window where
  | spread
  | near (z : Nat)
  | boot
  | pm
  | regs
  | none
deriving DecidableEq, Repr

/-- Target kinds of fixed-lag delivery (R136). -/
inductive Kind where
  | near | spread | far
deriving DecidableEq, Repr

def taSpread : Nat := 0x100000000
def taNear : Nat := 0x400000000
def taBoot : Nat := 0xE00000000
def taPm : Nat := 0xE10000000
def taRegs : Nat := 0xF00000000

/-- k_t of tier `t` (R53, R54, R63); 0 for a tier that is not fitted. -/
def kOf (c : Ctl) (t : Nat) : Nat := if t < c.part.tiers then 4 * bits (reg c rgnSplit) (4 * t) 3 else 0

/-- The fitted tiers. -/
def fitted (c : Ctl) : List Nat := List.range c.part.tiers

/-- Banks of a slice that exist (R17). -/
def bankCount (c : Ctl) : Nat := 16 * c.part.tiers

/-- Spread banks per slice. -/
def kSum (c : Ctl) : Nat := kOf c 0 + kOf c 1 + kOf c 2

/-- The pool sizes in MiB (R54, R56). -/
def spreadMib (c : Ctl) : Nat := 128 * kSum c
def nearMib (c : Ctl) : Nat := 8 * (bankCount c - kSum c)
def carvedBanks (z : Nat) : Nat := if z = 0 then 3 else if z < 8 then 1 else 0
def popMib (c : Ctl) (z : Nat) : Nat := nearMib c - 8 * carvedBanks z

/-- Bank `b` is one of the carved banks of zone `z` (Table 2-2). -/
def isCarved (z b : Nat) : Bool := decide (z = 0 ∧ (b = 13 ∨ b = 14)) || decide (z < 8 ∧ b = 15)

/-- The spread banks and the near banks of a slice of zone `z`, ascending, carved banks left out. -/
def spreadBankList (c : Ctl) : List Nat := (List.range (bankCount c)).filter (fun b => decide (b % 16 < kOf c (b / 16)))
def nearBankList (c : Ctl) (z : Nat) : List Nat :=
  (List.range (bankCount c)).filter (fun b => decide (kOf c (b / 16) ≤ b % 16) && !isCarved z b)

/-- The canonical address of a line: the address-zero window names a boot or a spread line (R49, R170). -/
def canonTa (remap : Bool) (ta : Nat) : Nat := if ta < 0x1000000 then (if remap then taSpread + ta else taBoot + ta) else ta

/-- The window of a canonical address (R42, R51); `none` for an unpopulated one. -/
def windowOf (c : Ctl) (ta : Nat) : Window :=
  if taSpread ≤ ta ∧ ta < taSpread + spreadMib c * 0x100000 then .spread
  else if taNear ≤ ta ∧ ta < taNear + 16 * 0x40000000 then
    let z := (ta - taNear) / 0x40000000
    if (ta - taNear) % 0x40000000 < popMib c z * 0x100000 then .near z else .none
  else if taBoot ≤ ta ∧ ta < taBoot + 0x1000000 then .boot
  else if taPm ≤ ta ∧ ta < taPm + 0x4000000 then .pm
  else if taRegs ≤ ta ∧ ta < 0x1000000000 then .regs
  else .none

/-- A stored line by logical slice, bank and line within the bank. -/
structure Loc where
  s : Nat
  b : Nat
  r : Nat
deriving DecidableEq, Repr

/-- bank_fold of R60. -/
def bankFold (q n : Nat) : Nat × Nat :=
  let r := q / n
  let h := nbits r 0 4 ^^^ nbits r 4 4 ^^^ nbits r 8 4 ^^^ nbits r 12 2
  ((q % n + h) % n, r)

/-- spread_place of R58. -/
def spreadPlace (c : Ctl) (ta : Nat) : Loc :=
  let line := (ta - taSpread) / 64
  let s := nbits line 0 7 ^^^ nbits line 7 7 ^^^ nbits line 14 7 ^^^ nbits line 21 7
  let (j, r) := bankFold (line / 128) (kSum c)
  ⟨s, (spreadBankList c).getD j 0, r⟩

/-- near_place of R59. -/
def nearPlace (c : Ctl) (ta z : Nat) : Loc :=
  let nl := (ta - (taNear + z * 0x40000000)) / 64
  let i := nbits nl 0 3 ^^^ nbits nl 3 3 ^^^ nbits nl 6 3 ^^^ nbits nl 9 3 ^^^ nbits nl 12 3 ^^^ nbits nl 15 3
    ^^^ nbits nl 18 3 ^^^ nbits nl 21 3
  let (j, r) := bankFold (nl / 8) (bankCount c - kSum c - carvedBanks z)
  ⟨8 * z + i, (nearBankList c z).getD j 0, r⟩

/-- The carve-out mapping of R61. -/
def bootPlace (ta : Nat) : Loc :=
  let b := (ta - taBoot) / 64
  ⟨nbits b 0 3, 13 + nbits b 17 1, nbits b 3 14⟩
def pmPlace (ta : Nat) : Loc :=
  let p := (ta - taPm) / 64
  ⟨nbits p 0 6, 15, nbits p 6 14⟩

/-- Where the line of a canonical address is stored; `none` when it has no storage. -/
def place (c : Ctl) (ta : Nat) : Option Loc :=
  match windowOf c ta with
  | .spread => some (spreadPlace c ta)
  | .near z => some (nearPlace c ta z)
  | .boot => some (bootPlace ta)
  | .pm => some (pmPlace ta)
  | _ => none

/-- The physical slice of a logical slice in the committed table (R18). -/
def committed (c : Ctl) (s : Nat) : Nat := tabGet (9 * (s / 8) + s % 8) c.prt.moved s

/-- The migration state of a zone. -/
def migOf (c : Ctl) (z : Nat) : Mig := tabGet Mig.rest c.prt.mig z

/-- The physical slice of line `x = 16384 b + r` of a logical slice (R399); a held write is the caller's `atWatermark`. -/
def redirect (c : Ctl) (s x : Nat) : Nat :=
  let m := migOf c (s / 8)
  if m.built ∧ m.slice = s ∧ x < m.wm then m.spare else committed c s

/-- The line is the watermark line of a running copy, at which writes are held (R399). -/
def atWatermark (c : Ctl) (s x : Nat) : Bool :=
  let m := migOf c (s / 8)
  m.built && decide (m.slice = s ∧ x = m.wm)

/-- Slice-local index of a line. -/
def Loc.x (l : Loc) : Nat := 16384 * l.b + l.r

/-- The physical key of a line, and of line `r` of bank `b` of physical slice `p`. -/
def physKey (p b r : Nat) : Nat := (48 * p + b) * 16384 + r
def keyOf (c : Ctl) (l : Loc) : Nat := physKey (redirect c l.s l.x) l.b l.r

/-- The key of physical bank `b` of physical slice `p` in the bank table. -/
def bankKey (p b : Nat) : Nat := 48 * p + b

/-- The logical slice that a physical slice serves in the committed table. -/
def logicalOf (c : Ctl) (p : Nat) : Option Nat :=
  ((List.range 8).map (fun i => 8 * (p / 9) + i)).find? (fun s => decide (committed c s = p))

/-- A physical slice is in use: it serves a logical slice, or a migration fills it. Every other slice is a spare or a retired one,
whose banks are OFF (R415). -/
def sliceUsed (c : Ctl) (p : Nat) : Bool :=
  (logicalOf c p).isSome || ((migOf c (p / 9)).active && decide ((migOf c (p / 9)).spare = p))

/-- A bank's entry. -/
def bankOf (c : Ctl) (p b : Nat) : Bank :=
  if sliceUsed c p then tabGet Bank.rest c.pwr.bank (bankKey p b) else { Bank.rest with st := .off }
def setBank (p b : Nat) (v : Bank) (c : Ctl) : Ctl :=
  { c with pwr := { c.pwr with bank := tabPut Bank.rest (bankKey p b) v c.pwr.bank } }

/-- The region of a canonical address (R62). -/
def regionOf (ta : Nat) : Option Nat :=
  if taSpread ≤ ta ∧ ta < taSpread + 0x200000000 then some ((ta - taSpread) / 0x200000)
  else if taNear ≤ ta ∧ ta < taNear + 16 * 0x40000000 then
    let z := (ta - taNear) / 0x40000000
    let n := (ta - taNear) % 0x40000000 / 0x200000
    if n < 256 then some (4096 + 256 * z + n) else none
  else none

/-- The base address of a region. -/
def regionBase (n : Nat) : Nat :=
  if n < 4096 then taSpread + n * 0x200000 else taNear + (n - 4096) / 256 * 0x40000000 + (n - 4096) % 256 * 0x200000

/-- The pool field of a region entry (R68): 0 spread, 1 near, 2 unpopulated. -/
def regionPool (c : Ctl) (n : Nat) : Nat :=
  match windowOf c (regionBase n) with
  | .spread => 0
  | .near _ => 1
  | _ => 2

/-- Class and stored format of a region; an unpopulated entry reads class 0 (R67). -/
def regionClass (c : Ctl) (n : Nat) : Nat := if regionPool c n = 2 then 0 else bits (reg c (rgnEnt n)) 8 2
def regionFmt (c : Ctl) (n : Nat) : Nat := bits (reg c (rgnEnt n)) 16 8

/-- The stored format of a canonical address: DENSE FP32 outside the region table (R48, R236). -/
def fmtOf (c : Ctl) (ta : Nat) : Nat := match regionOf ta with | some n => regionFmt c n | none => 0

/-- The line lies in a guarded region (R69). -/
def isGuarded (c : Ctl) (ta : Nat) : Bool :=
  match regionOf ta with
  | some n => decide (regionClass c n = 1)
  | none => false

/-- The line is the parity line of its stripe (R71). -/
def isParity (c : Ctl) (ta : Nat) : Bool := isGuarded c ta && decide ((ta / 64) % 16 = 15)

/-- The line addresses of the stripe of a guarded line, data lines first, parity line last. -/
def stripe (ta : Nat) : List Nat := (List.range 16).map (fun i => ta / 1024 * 1024 + 64 * i)
def parityTa (ta : Nat) : Nat := ta / 1024 * 1024 + 960

/-- The target kind of a line for core `z` by its address (Table 2-8); a line without storage has none. -/
def addrKind (c : Ctl) (z ta : Nat) : Option Kind :=
  match windowOf c ta with
  | .near y => if y = z then some .near else some .far
  | .spread => some .spread
  | .boot => some .spread
  | .pm => some .spread
  | _ => none

/-- The target kind of a line that a READ or a WRITE names: a parity line completes with UNSUPPORTED from its address alone, and has none
(R71, R109, log 14). -/
def kindOf (c : Ctl) (z ta : Nat) : Option Kind := if isParity c ta then none else addrKind c z ta

/-- The path of a line that HP, a mover, the landing unit or Acien touches is the spread path (R541). -/
def isNearOf (c : Ctl) (z ta : Nat) : Bool := decide (kindOf c z ta = some .near)

/-- BRL_CTRL.remap (R499). -/
def remapNow (c : Ctl) : Bool := bit (reg c brlCtrl) 0

/-- The zone that serves a stored line. -/
def Loc.zone (l : Loc) : Nat := l.s / 8

/-- Undo the bank fold of R60: the index within the slice of slot `j`, line `r`. -/
def bankUnfold (j r n : Nat) : Nat :=
  let h := nbits r 0 4 ^^^ nbits r 4 4 ^^^ nbits r 8 4 ^^^ nbits r 12 2
  r * n + (j + n * 16 - h) % n

/-- The canonical address stored at a line of a logical slice (the inverse of R58, R59 and R61); `none` for a bank that does not exist. -/
def taOf (c : Ctl) (l : Loc) : Option Nat :=
  let z := l.s / 8
  if bankCount c ≤ l.b then none
  else if isCarved z l.b then
    if l.b = 15 then some (taPm + 64 * (l.s + 64 * l.r)) else some (taBoot + 64 * (l.s + 8 * l.r + 131072 * (l.b - 13)))
  else if l.b % 16 < kOf c (l.b / 16) then
    let q := bankUnfold ((spreadBankList c).idxOf l.b) l.r (kSum c)
    let h := l.s ^^^ nbits q 0 7 ^^^ nbits q 7 7 ^^^ nbits q 14 7
    some (taSpread + 64 * (q * 128 + h))
  else
    let q := bankUnfold ((nearBankList c z).idxOf l.b) l.r (bankCount c - kSum c - carvedBanks z)
    let h := l.s % 8 ^^^ nbits q 0 3 ^^^ nbits q 3 3 ^^^ nbits q 6 3 ^^^ nbits q 9 3 ^^^ nbits q 12 3 ^^^ nbits q 15 3
      ^^^ nbits q 18 3
    some (taNear + z * 0x40000000 + 64 * (q * 8 + h))

/-- The canonical address of the line at physical key `k`, by the redirect of R399. -/
def keyTa (c : Ctl) (k : Nat) : Option Nat :=
  let r := k % 16384
  let b := k / 16384 % 48
  let p := k / 16384 / 48
  (((List.range 8).map (fun i => 8 * (p / 9) + i)).find? (fun s => decide (redirect c s (16384 * b + r) = p))).bind
    (fun s => taOf c ⟨s, b, r⟩)

end Sys2Proof.Machine
end

