-- ==== Sys2Proof/Machine/Counters.lean ====
section
/-! DEFINITION. What events leave behind: event counters, interrupt causes, the capture queue, the PRT_EV latches, Lovage's energy tokens
and the counter of free values (R385, R409, R410, R438, R500..R506). -/

namespace Sys2Proof.Machine

/-- An event of Table 13-20: source, weight, qualifier, and the zone, port (or queue) and group it concerns. -/
structure Ev where
  src : Nat
  w : Nat
  qual : Nat
  zone : Option Nat
  port : Option Nat
  grp : Option Nat
deriving DecidableEq, Repr

/-- An event of weight 1 with a zone. -/
def evZ (src z : Nat) : Ev := ⟨src, 1, 0, some z, none, none⟩
/-- An event of weight 1 with a port or queue. -/
def evP (src p : Nat) : Ev := ⟨src, 1, 0, none, some p, none⟩
/-- An event of weight 1 with a group and a qualifier. -/
def evG (src q g : Nat) : Ev := ⟨src, 1, q, none, none, some g⟩
/-- An event of weight 1 with a qualifier alone. -/
def evQ (src q : Nat) : Ev := ⟨src, 1, q, none, none, none⟩

/-- A counter counts the event (R503); a filter that the event does not carry admits it. -/
def Ctr.admits (k : Ctr) (e : Ev) : Bool :=
  bit k.sel 31 && decide (bits k.sel 0 8 = e.src)
    && (!bit k.sel 30 || decide (bits k.sel 16 8 = e.qual))
    && (match e.zone with | some z => bit k.flt z | none => true)
    && (match e.port with | some p => !bit k.flt 27 || decide (bits k.flt 16 8 = p) | none => true)
    && (match e.grp with | some g => bit k.flt (28 + g) | none => true)

/-- Raise interrupt cause `n` (R500, R501). -/
def raiseInt (n : Nat) (c : Ctl) : Ctl :=
  { c with int := { c.int with stat := setBit c.int.stat n true, raised := setBit c.int.raised n true } }

/-- The overflow enable of counter `i`. -/
def ovfEnabled (c : Ctl) (i : Nat) : Bool := if i < 32 then bit c.evc.enLo i else bit c.evc.enHi (i - 32)

/-- Add an event to the listed counter at index `i` (R503): modulo 2^48, with the overflow bit and cause 23 on a wrap. -/
def countOne (e : Ev) (c : Ctl) (p : Nat × Ctr) : Ctl :=
  if p.2.admits e then
    let n := p.2.cnt + e.w
    let c1 := { c with evc := { c.evc with ctr := tabPut Ctr.rest p.1 { p.2 with cnt := n % 2 ^ 48 } c.evc.ctr } }
    if 2 ^ 48 ≤ n then
      let c2 := { c1 with evc := { c1.evc with ovf := insertNew p.1 c1.evc.ovf } }
      if ovfEnabled c p.1 then raiseInt 23 c2 else c2
    else c1
  else c

/-- An event source is implemented (R497): listed, and its unit present. 0x56, refused force writes, is implemented on every part, since R358 has
them counted where force mode is absent (DEDUCED, log 144). -/
def srcPresent (p : Part) (i : Nat) : Bool :=
  srcLegal i
    && (p.fennel || !decide (0x20 ≤ i ∧ i ≤ 0x27)) && (p.fold || !decide (0x33 ≤ i ∧ i ≤ 0x35))
    && (p.guarded || !decide (i = 0x6A ∨ i = 0x6B ∨ i = 0x6E)) && (p.launch || decide (i ≠ 0x8D))
    && (decide (p.linkFit % 4096 ≠ 0) || !decide (i = 0x08 ∨ i = 0x09 ∨ i = 0x9C ∨ i = 0x9D))

/-- The part with its disabled units taken out (R466). -/
def enabledPart (c : Ctl) : Part :=
  { c.part with
    fennel := fennelOn c, fold := foldOn c, guarded := guardedOn c, force := forceOn c, launch := launchOn c
    linkFit := bits (reg c brlUnitEn) 16 12 &&& c.part.linkFit }

/-- An event reaches the counters (R503, R505); a source that is not implemented, or whose unit is disabled, never counts (R497, R504). -/
def emit (e : Ev) (c : Ctl) : Ctl :=
  if c.evc.run ∧ e.w ≠ 0 ∧ srcPresent (enabledPart c) e.src = true then c.evc.ctr.foldl (countOne e) c else c

/-- A snapshot of every count (R505). -/
def evcSnap (c : Ctl) : Ctl := { c with evc := { c.evc with ctr := c.evc.ctr.map (fun p => (p.1, { p.2 with snap := p.2.cnt })) } }

/-- A clear: every count, snapshot and overflow bit to 0 (R505). -/
def evcClear (c : Ctl) : Ctl :=
  { c with evc := { c.evc with
      ovf := []
      ctr := (c.evc.ctr.map (fun p => (p.1, { p.2 with cnt := 0, snap := 0 }))).filter (fun p => decide (p.2 ≠ Ctr.rest)) } }

/-- The snapshot and the clear that were written in a port cycle take effect at its end, the snapshot first (R505). -/
def evcEdge (c : Ctl) : Ctl :=
  let c1 := if c.evc.snapDue then evcSnap c else c
  let c2 := if c.evc.clrDue then evcClear c1 else c1
  { c2 with evc := { c2.evc with snapDue := false, clrDue := false } }

/-- Latch class `b` of PRT_EV; a class already latched raises nothing further (R385). -/
def latchPrt (b : Nat) (c : Ctl) : Ctl := if bit (reg c prtEv) b then c else raiseInt 5 (raiseBit prtEv b c)

/-- Set bit `b` of PWR_EV and raise its cause (R454): 0 sleep_fail 9, 1 supply_warn 8, 2 lost 10, 3 off_refused 11. -/
def latchPwr (b : Nat) (c : Ctl) : Ctl :=
  raiseInt (if b = 0 then 9 else if b = 1 then 8 else if b = 2 then 10 else 11) (raiseBit pwrEv b c)

/-- An event record with the present time (Table 10-2). -/
def capOf (c : Ctl) (kind pslice bank line word syn lane lslice : Nat) : Cap :=
  ⟨kind, pslice, bank, line, word, syn, lane, lslice, c.rtc, 0⟩

/-- Capture an event that concerns `zone`; a full queue counts it as lost (R409, R410, Table 13-20). -/
def captureIn (zone : Option Nat) (e : Cap) (c : Ctl) : Ctl :=
  if c.prt.cap.length < 64 then { c with prt := { c.prt with cap := c.prt.cap ++ [e] } }
  else emit { evQ 0x78 0 with zone := zone } (latchPrt 7 (bumpSat prtCapLost 0 32 c))

/-- Capture an event of a slice (R409). -/
def capture (e : Cap) (c : Ctl) : Ctl := captureIn (some (e.pslice / 9)) e c

/-- Lovage counts `n` events of token `k` in the present interval (R438). -/
def token (k n : Nat) (c : Ctl) : Ctl := { c with lov := { c.lov with tok := c.lov.tok + n * bits (reg c (lovTok k)) 0 16 } }

/-- The energy token of class `k` (Table 11-6). -/
def tokenOf (c : Ctl) (k : Nat) : Nat := bits (reg c (lovTok k)) 0 16

/-- Take a fresh free value's number. -/
def freshFree (c : Ctl) : Nat × Ctl := (c.free, { c with free := c.free + 1 })

/-- The line of free bytes of draw `n`. -/
def freeLine (n : Nat) : Line := (List.range 64).map (Config.freeByte n)

/-- The core that an output goes to. -/
def edgeCore (e : Edge) : Option Nat :=
  match e with
  | .rs p _ _ _ _ _ _ => if p < 80 then some (p / 5) else none
  | .wr p _ _ _ => if p < 80 then some (p / 5) else none
  | .kDone z _ => some z
  | .inv z _ _ _ _ => some z
  | .sr z _ _ _ => some z
  | .wk z _ _ => some z
  | .mbAck z _ => some z
  | _ => none

/-- Outputs hold still: those to a clamped zone at their reset values (R473), and after SLEEP all but MP and Acien's (R433). -/
def edgeHeld (c : Ctl) (e : Edge) : Bool :=
  (match edgeCore e with | some z => bit (reg c brlIsol) z | none => false)
    || (bit (reg c pwrSt) 31 && (match e with | .mpRs _ _ => false | _ => true))

/-- Drive an output beat or pulse in the present port cycle; after a clock change outside reset the outputs are undefined (R511). -/
def drive (e : Edge) (c : Ctl) : Ctl :=
  if edgeHeld c e then c else { c with edge := c.edge ++ [if c.out.vague then .undefined c.edge.length else e] }

/-- Index of a target data port (R451, class 0). -/
def portIndex (p : Port) : Nat :=
  match p with
  | .ma c => 5 * c
  | .mb c => 5 * c + 1
  | .mc c => 5 * c + 2
  | .vx c => 5 * c + 3
  | .cd c => 5 * c + 4
  | .hp => 112

/-- The core that owns a port. -/
def portCore (p : Port) : Option Nat :=
  match p with
  | .ma c => some c
  | .mb c => some c
  | .mc c => some c
  | .vx c => some c
  | .cd c => some c
  | .hp => none

/-- Event of a port: zone of its core and port index. -/
def evPort (src : Nat) (p : Port) : Ev := ⟨src, 1, 0, (portCore p), some (portIndex p), none⟩

/-- Event of a queue (filter Q, carried in the port field), with a qualifier. -/
def evQueue (src qual q : Nat) : Ev := ⟨src, 1, qual, none, some q, none⟩

end Sys2Proof.Machine
end

