-- ==== Sys2Proof/Machine/Store.lean ====
section
/-! DEFINITION. Tensor memory: the few operations that read and change stored lines, zero bits, poison and flipped bits (R16, R262,
R263, R268, R373..R375). Every change of memory goes through the operations of this file. -/

namespace Sys2Proof.Machine

/-- A line of zeros. -/
def zeroLine : Line := List.replicate 64 0

/-- Lines of the save area (R426): bank 15, lines 256..511, of the slices of zones 0..7. -/
def isSaveKey (k : Nat) : Bool :=
  decide (k / 16384 / 48 < 72 ∧ k / 16384 % 48 = 15 ∧ 256 ≤ k % 16384 ∧ k % 16384 < 512)

/-- The line shows an image of the save area, whose bytes the spec does not lay out (log 9). -/
def Store.image (st : Store) (k : Nat) : Option Nat :=
  match st.blur with
  | some g => if isSaveKey k && (tabFind st.sharp k).isNone then some g else none
  | none => none

/-- The 64 data bytes of a line. -/
def Store.data (st : Store) (k : Nat) : Line :=
  match st.image k with
  | some g => (List.range 64).map (Config.saveByte g k)
  | none =>
    let mine := st.cells.filter (fun p => decide (64 * k ≤ p.1 ∧ p.1 < 64 * k + 64))
    (List.range 64).map (fun i => tabGet 0 mine (64 * k + i))

/-- Replace the 64 bytes of the line with key `k`; a zero byte is not listed. -/
def setLine (k : Nat) (d : Line) (cs : List Host.Cell) : List Host.Cell :=
  cs.filter (fun p => decide (p.1 < 64 * k))
    ++ (List.range 64).filterMap (fun i => if d.getD i 0 = 0 then none else some (64 * k + i, d.getD i 0))
    ++ cs.filter (fun p => decide (64 * k + 64 ≤ p.1))

/-- All bytes of a line are zero. -/
def allZero (l : Line) : Bool := l.all (fun b => decide (b = 0))

/-- The zero bit of a line (R262). -/
def Store.isZero (st : Store) (k : Nat) : Bool :=
  match st.image k with
  | some _ => allZero (st.data k)
  | none => (tabFind st.tags k).isNone

/-- The line is stored poisoned (R375). -/
def Store.isPoison (st : Store) (k : Nat) : Bool :=
  match st.image k with
  | some _ => false
  | none => decide (tabFind st.tags k = some .poisoned ∨ tabFind st.tags k = some .lost)

/-- The line was poisoned with its lost tag group (R267). -/
def Store.isLost (st : Store) (k : Nat) : Bool :=
  match st.image k with
  | some _ => false
  | none => decide (tabFind st.tags k = some .lost)

/-- Note that a line of the save area has been written. -/
def Store.touch (k : Nat) (st : Store) : Store :=
  if st.blur.isSome && isSaveKey k then { st with sharp := tabIns k () st.sharp } else st

/-- Store a whole line without poison: all zero sets the zero bit only (R263). -/
def Store.put (k : Nat) (d : Line) (st : Store) : Store :=
  let t := st.touch k
  { t with
    cells := setLine k d t.cells
    tags := if allZero d then tabDel k t.tags else tabIns k .data t.tags
    upsets := tabDel k t.upsets }

/-- Store a line poisoned (R100, R375), `lost` with its tag group (R267). -/
def Store.poison (lost : Bool) (k : Nat) (st : Store) : Store :=
  let t := st.touch k
  { t with
    cells := setLine k zeroLine t.cells
    tags := tabIns k (if lost then .lost else .poisoned) t.tags
    upsets := tabDel k t.upsets }

/-- Record the flipped bits of a line (R373). -/
def Store.setUpset (k : Nat) (u : List Nat) (st : Store) : Store := { st with upsets := tabPut [] k u st.upsets }

/-- Set the zero bits of every line of one bank. -/
def Store.wipeBank (p b : Nat) (st : Store) : Store :=
  let mine (k : Nat) : Bool := decide (k / 16384 = 48 * p + b)
  { st with
    cells := st.cells.filter (fun q => !mine (q.1 / 64))
    tags := st.tags.filter (fun q => !mine q.1)
    upsets := st.upsets.filter (fun q => !mine q.1)
    sharp := if st.blur.isSome && decide (p < 72 ∧ b = 15) then
        (List.range 256).foldl (fun t i => tabIns (physKey p b (256 + i)) () t) st.sharp
      else st.sharp }

/-- Set the zero bits of the lines whose keys satisfy a test. -/
def Store.clearWhere (f : Nat → Bool) (st : Store) : Store :=
  { st with
    cells := st.cells.filter (fun p => !f (p.1 / 64))
    tags := st.tags.filter (fun p => !f p.1)
    upsets := st.upsets.filter (fun p => !f p.1) }

/-- The save area now holds image `g` (R425 step 3). -/
def Store.save (g : Nat) (st : Store) : Store :=
  { cells := st.cells.filter (fun p => !isSaveKey (p.1 / 64))
    tags := st.tags.filter (fun p => !isSaveKey p.1)
    upsets := st.upsets.filter (fun p => !isSaveKey p.1)
    blur := some g
    sharp := [] }

/-- The flipped bits of word `w` of a line: bits 72w..72w+71, data bits first. -/
def flipsOf (u : List Nat) (w : Nat) : List Nat := (u.filter (fun i => decide (i / 72 = w))).map (fun i => i % 72)

/-- Flip more bits: a bit flipped twice is as it was. -/
def flipMore (u v : List Nat) : List Nat :=
  let fresh := v.filter (fun i => decide (i < 576))
  (List.range 576).filter (fun i => u.contains i != fresh.contains i)

/-- What the SEC-DED check of one word finds (R373, R374). -/
inductive WordRes where
  | clean
  | corrected
  | wrong (bytes : List Byte)
  | bad
deriving DecidableEq, Repr

/-- The check of a word with `flips` flipped bits; three or more leave it to free values `n` (R374). -/
def checkWord (flips : List Nat) (n : Nat) : WordRes :=
  match flips.length with
  | 0 => .clean
  | 1 => .corrected
  | 2 => .bad
  | _ => if Config.freeBit n then .bad else .wrong ((List.range 8).map (Config.freeByte n))

/-- The syndrome of flipped bits, a code of the part (log 11). -/
def syndromeOf (flips : List Nat) : Nat := (Config.syndrome (flips.foldl (fun a i => a + 2 ^ i) 0)).toNat

/-- What an array read of a line that is not a zero line finds, before any repair: `ces` words were corrected, the first of them `word` (`cword`)
with its syndrome; a bad line names its first uncorrectable word too (R376, R377). -/
inductive Raw where
  | zero
  | poison
  | good (data : Line) (ces : Nat) (word syn : Nat)
  | bad (word syn ces cword csyn : Nat)
deriving DecidableEq, Repr

/-- The data of a line with its miscorrected words replaced. -/
def patchWords (d : Line) (rs : List WordRes) : Line :=
  (List.range 64).map (fun i => match rs.getD (i / 8) .clean with
    | .wrong bs => bs.getD (i % 8) 0
    | _ => d.getD i 0)

/-- Read the array at key `k` after the upset `up`: what is found, and the first free-value number not used. The result is `poison` when
any word is within one bit of the poison word (R375). -/
def rawRead (st : Store) (k : Nat) (up : List Nat) (n : Nat) : Raw × Nat :=
  if st.isZero k then (.zero, n)
  else
    let u := flipMore (tabGet [] st.upsets k) up
    let fs := (List.range 8).map (flipsOf u)
    let pois := st.isPoison k
    if pois && fs.any (fun f => decide (f.length ≤ 1)) then (.poison, n)
    else
      let rs := fs.zipIdx.map (fun (f, i) => checkWord f (n + i))
      let n' := if fs.any (fun f => decide (3 ≤ f.length)) then n + 8 else n
      let fixed (r : WordRes) : Bool := decide (r ≠ .clean ∧ r ≠ .bad)
      let ces := (rs.filter fixed).length
      let w := (rs.findIdx? fixed).getD 0
      let syn := syndromeOf (fs.getD w [])
      match rs.findIdx? (fun r => decide (r = .bad)) with
      | some b => (.bad b (syndromeOf (fs.getD b [])) ces w syn, n')
      | none => (.good (patchWords (st.data k) rs) ces w syn, n')

/-- The flips that stay after a poisoned line has been read: words one bit from the poison word are rewritten (R375). -/
def poisonRest (u : List Nat) : List Nat := u.filter (fun i => decide ((flipsOf u (i / 72)).length ≠ 1))

/-- Record an upset of a stored line that is not a zero line. -/
def Store.upset (k : Nat) (up : List Nat) (st : Store) : Store :=
  if up.isEmpty || st.isZero k then st else st.setUpset k (flipMore (tabGet [] st.upsets k) up)

/-- The canonical form of tensor memory: bytes rising and none zero, tags, flips and save-area marks rising, no empty flip list. -/
def Store.wf (st : Store) : Bool :=
  tabWf (0 : Byte) st.cells && tabSorted st.tags && tabWf ([] : List Nat) st.upsets && tabSorted st.sharp

end Sys2Proof.Machine
end

