-- ==== Sys2Proof/Machine/Array.lean ====
section
/-! DEFINITION. One access to a stored line at its slice: availability of its bank, the read with correction, rebuild and poison, and
the write with its parity protocol (R16, R265, R373..R384, R395, R399, R403). -/

namespace Sys2Proof.Machine

/-- Change the control part of the state; memory and the queue stay. -/
def State.onCtl (f : Ctl → Ctl) (s : State) : State := { s with ctl := f s.ctl }

/-- Change memory; all else stays. -/
def State.onStore (f : Store → Store) (s : State) : State := { s with store := f s.store }

/-- Precedence of Table 3-5. -/
def Status.rank (s : Status) : Nat :=
  match s with
  | .ok => 0
  | .poison => 1
  | .absent => 2
  | .fenced => 3
  | .unsupported => 4

def worst (a b : Status) : Status := if a.rank < b.rank then b else a

/-- The result of a line that is not OK, or of a write (R104). -/
def resSt (st : Status) : LineRes := ⟨st, zeroLine, [], false, false, false, none⟩

/-- The result of a line that delivers data. -/
def resData (d : Line) (zero : Bool) : LineRes := ⟨.ok, d, [], zero, false, false, none⟩

def xorLine (a b : Line) : Line := (List.range 64).map (fun i => a.getD i 0 ^^^ b.getD i 0)

/-- The bytes of `new` where the byte mask is set, of `old` elsewhere. -/
def maskLine (mask : Nat) (new old : Line) : Line :=
  (List.range 64).map (fun i => if mask.testBit i then new.getD i 0 else old.getD i 0)

def fullMask : Nat := 2 ^ 64 - 1

/-- Code of a slip cause (Table 4-3). -/
def Cause.code (k : Cause) : Nat :=
  match k with
  | .guardRebuild => 1
  | .retWake => 2
  | .retrain => 3
  | .supplyDip => 4
  | .fullRate => 5
  | .path => 6
  | .order => 7
  | .region => 8
  | .migration => 9
  | .lovage => 10
  | .lean => 11
  | .horizon => 12

/-- The cause with the lower code (R149). -/
def lowCause (a b : Option Cause) : Option Cause :=
  match a, b with
  | some x, some y => if y.code < x.code then some y else some x
  | some x, none => some x
  | none, y => y

/-- Whether an access can proceed. -/
inductive Avail where
  | ready
  | absent
  | wait (c : Option Cause)
deriving DecidableEq, Repr

/-- The lane state of bundle `t` of physical slice `p`. -/
def laneOf (c : Ctl) (p t : Nat) : Lane := tabGet Lane.rest c.prt.lane (3 * p + t)
def setLane (p t : Nat) (v : Lane) (c : Ctl) : Ctl :=
  { c with prt := { c.prt with lane := tabPut Lane.rest (3 * p + t) v c.prt.lane } }

/-- A bundle below or at the tier of bank `b` is in full retrain (R22, R395). -/
def retraining (c : Ctl) (p b : Nat) : Bool := (List.range (b / 16 + 1)).any (fun t => (laneOf c p t).retrain)

/-- The number of the zero-bit group of 64 lines that holds line `r` of bank `b` of slice `p` (R267). -/
def groupKey (p b r : Nat) : Nat := physKey p b r / 64

/-- Whether an access to the line at `l` proceeds; `array` when it is more than a read of the tag store (R264, R265, R395, R416). One to a
line whose zero-bit group is to be reloaded waits for that (R267). -/
def avail (c : Ctl) (l : Loc) (array : Bool) : Avail :=
  let p := redirect c l.s l.x
  match (bankOf c p l.b).st with
  | .off => .absent
  | st =>
    if (tabFind c.prt.tagWait (groupKey p l.b l.r)).isSome then .wait none
    else if !array then .ready
    else if st ≠ .on then .wait (some .retWake)
    else if retraining c p l.b then .wait (some .retrain)
    else .ready

/-- The redirect entry that an access to the line at `l` needs is uncorrectable: such a read gives POISON and such a write is discarded, of a
line beside the one that an access names too (R386, R476). -/
def redirectBad (c : Ctl) (l : Loc) : Bool := c.prt.badCommitted.contains l.s || c.prt.badMig.contains l.zone

/-- An access asks for the wake of its bank, and of the same bank of the other slice of a migration (R403, R416). -/
def wantWake (l : Loc) (c : Ctl) : Ctl :=
  let m := migOf c (l.s / 8)
  let ask (p : Nat) (c : Ctl) : Ctl :=
    let b := bankOf c p l.b
    if b.st = .ret then setBank p l.b { b with want := true } c else c
  let c1 := ask (redirect c l.s l.x) c
  if m.built ∧ m.slice = l.s then ask m.spare (ask (committed c l.s) c1) else c1

/-- The idle timer of the bank restarts (R416). -/
def touchBank (l : Loc) (c : Ctl) : Ctl :=
  let p := redirect c l.s l.x
  setBank p l.b { bankOf c p l.b with last := c.rtc } c

/-- The spare whose banks follow those of slice `p` (R403). -/
def follower (c : Ctl) (p : Nat) : Option Nat :=
  let m := migOf c (p / 9)
  if m.built ∧ committed c m.slice = p then some m.spare else none

/-- The zero-bit groups that `f` selects wait for no reload. -/
def dropGroups (f : Nat → Bool) (c : Ctl) : Ctl := { c with prt := { c.prt with tagWait := c.prt.tagWait.filter (fun x => !f x.1) } }

/-- A bank changes state: contents are lost on the way into and out of OFF (R414, R418). -/
def bankTo1 (p b : Nat) (st : BankSt) (s : State) : State :=
  let x := bankOf s.ctl p b
  if x.st = st then s
  else
    let s1 := if st = .off ∨ x.st = .off then s.onStore (Store.wipeBank p b) else s
    s1.onCtl (fun c0 =>
      let c := if st = .off then dropGroups (fun k => decide (k / 256 = groupKey p b 0 / 256)) c0 else c0
      let c1 := setBank p b { x with st := st, want := false, lost := x.lost && decide (st ≠ .off), last := c.rtc } c
      match st with
      | .ret => emit (evZ 0x81 (p / 9)) c1
      | .off => emit (evZ 0x82 (p / 9)) c1
      | _ => c1)

/-- A bank changes state, and the same bank of a spare under migration with it (R403). -/
def bankTo (p b : Nat) (st : BankSt) (s : State) : State :=
  let s1 := bankTo1 p b st s
  match follower s.ctl p with
  | some q => bankTo1 q b st s1
  | none => s1

/-- The scrub state of a slice. -/
def scrubOf (c : Ctl) (p : Nat) : Scrub := tabGet Scrub.rest c.prt.scrub p
def setScrub (p : Nat) (x : Scrub) (c : Ctl) : Ctl := { c with prt := { c.prt with scrub := tabPut Scrub.rest p x c.prt.scrub } }

/-- A bank that leaves RET goes to the front of its slice's scrub order (R388), also of an order that has not begun, or that waits for the next
pass. -/
def scrubFront (p b : Nat) (c : Ctl) : Ctl :=
  let x := scrubOf c p
  let left := if x.on then x.left else List.range (bankCount c)
  setScrub p { x with on := true, left := b :: left.filter (fun y => decide (y ≠ b)), r := 0 } c

/-- The wake of a bank ends (R414, R416): a LOST bank comes back with every zero bit set, and is reported (R424). -/
def bankUp (p b : Nat) (s : State) : State :=
  let x := bankOf s.ctl p b
  let s1 := if x.lost then s.onStore (Store.wipeBank p b) else s
  s1.onCtl (fun c =>
    let c1 := scrubFront p b (setBank p b { x with st := .on, want := false, lost := false, last := c.rtc } c)
    if x.lost then latchPwr 2 (modReg pwrSt (fun v => setBit v 30 true) c1) else c1)

/-- A capture of the line at `l`. -/
def captureLine (kind : Nat) (l : Loc) (word syn : Nat) (c : Ctl) : Ctl :=
  capture (capOf c kind (redirect c l.s l.x) l.b l.r word syn 0 l.s) c

/-- Corrected words: PRT_CE, a CE event (R376). -/
def noteCe (l : Loc) (n word syn : Nat) (c : Ctl) : Ctl :=
  captureLine 0x01 l word syn (emit { evZ 0x68 l.zone with w := n }
    (modReg prtCe (fun v => setBits v 0 32 (satAdd 32 v.toNat n)) c))

/-- Rebuilds and UEs of logical slice `s` in the present hour (R398). -/
def bumpHour (s : Nat) (ue : Bool) (c : Ctl) : Ctl :=
  let fresh := decide (3600000000 ≤ c.rtc - c.prt.hourStart)
  let h := if fresh then [] else c.prt.hour
  { c with prt := { c.prt with
      hourStart := if fresh then c.rtc else c.prt.hourStart
      hour := tabMod (0, 0) s (fun x => if ue then (x.1, x.2 + 1) else (x.1 + 1, x.2)) h } }

/-- A standard line made POISON (R377). -/
def noteUe (l : Loc) (word syn : Nat) (c : Ctl) : Ctl :=
  captureLine 0x02 l word syn (latchPrt 0 (emit (evZ 0x69 l.zone) (bumpHour l.s true (bumpSat prtUe 0 32 c))))

/-- A guarded rebuild (R381). -/
def noteRebuild (l : Loc) (word syn : Nat) (c : Ctl) : Ctl :=
  captureLine 0x03 l word syn (emit (evZ 0x6A l.zone) (bumpHour l.s false (bumpSat prtRbld 0 32 c)))

/-- An unrebuildable line (R383). -/
def noteUrbld (l : Loc) (word syn : Nat) (c : Ctl) : Ctl :=
  captureLine 0x04 l word syn (latchPrt 1 (emit (evZ 0x6B l.zone) (bumpSat prtUrbld 0 32 c)))

/-- A parity line repaired (R384, R390). -/
def noteParity (l : Loc) (c : Ctl) : Ctl := captureLine 0x05 l 0 0 (emit (evZ 0x6E l.zone) c)

/-- Read the array at `l`, correct it and write the corrected line back, without treating an uncorrectable word (R375, R376). Whoever calls it
has seen to it that the bank is awake and its bundle trained; a line behind a set zero bit needs neither, and its read does not visit the
bank (R264, R265). -/
def readRaw (l : Loc) (up : Upset) (s : State) : State × Raw :=
  let k := keyOf s.ctl l
  let (r, n) := rawRead s.store k up s.ctl.free
  let s1 := (s.onCtl (fun c => if r = .zero then c else touchBank l { c with free := n })).onStore (Store.upset k up)
  match r with
  | .good d ces w syn => if ces = 0 then (s1, r) else ((s1.onStore (Store.put k d)).onCtl (noteCe l ces w syn), r)
  | .bad _ _ ces w syn => (if ces = 0 then s1 else s1.onCtl (noteCe l ces w syn), r)
  | .poison => (s1.onStore (fun st => st.setUpset k (poisonRest (tabGet [] st.upsets k))), r)
  | _ => (s1, r)

/-- A zero line is read or written at the tag store (R269, R294); a read in a bank in RET, or on its way out of it, counts there
too (R455). -/
def countZero (l : Loc) (w : Bool) (c : Ctl) : Ctl :=
  emit (evZ (if w then 0x29 else 0x28) l.zone)
    (if !w && decide ((bankOf c (redirect c l.s l.x) l.b).st ≠ .on ∧ (bankOf c (redirect c l.s l.x) l.b).st ≠ .off) then emit (evZ 0x83 l.zone) c else c)

/-- A line is read or written beside the line that an access names: Lovage counts a line of class `k` (R35, R438), or a zero line, which is
served from the tag store and counted as such (R269, R294). -/
def countBeside (k : Nat) (l : Loc) (w zero : Bool) (c : Ctl) : Ctl :=
  token (if zero then 3 else k) 1 (if zero then countZero l w c else c)

/-- Add a line of a stripe into a sum: zero and poisoned lines count as zeros (R378); none once one cannot be read, or lies behind a redirect
entry that is lost (R476). Each line read counts in class `k`, or as a zero line where the array is not read (R269, R294, R438). -/
def sumLine (k : Nat) (acc : State × Option Line) (l : Loc) : State × Option Line :=
  if redirectBad acc.1.ctl l then (acc.1, none) else
  let (s0, r) := readRaw l [] acc.1
  let s := s0.onCtl (countBeside k l false (decide (r = .zero)))
  match acc.2, r with
  | some d, .good e _ _ _ => (s, some (xorLine d e))
  | some d, .zero => (s, some d)
  | some d, .poison => (s, some d)
  | _, _ => (s, none)

/-- The locations of the lines of a stripe but one. -/
def stripeBut (c : Ctl) (ta : Nat) : List Loc := ((stripe ta).filter (fun t => decide (t ≠ ta))).filterMap (place c)

/-- The exclusive-or of the other 15 lines of the stripe of `ta`; none when one of them, or a poisoned parity line, makes it
impossible (R381, R383; log 15). -/
def sumOthers (ta : Nat) (s : State) : State × Option Line :=
  let bad := match place s.ctl (parityTa ta) with
    | some l => decide (ta ≠ parityTa ta) && s.store.isPoison (keyOf s.ctl l)
    | none => true
  let (s1, d) := (stripeBut s.ctl ta).foldl (sumLine 1) (s, some zeroLine)
  (s1, if bad then none else d)

/-- Read the line at canonical `ta`, with rebuild or poison where it is uncorrectable (R376, R377, R381, R383). -/
def readLine (ta : Nat) (l : Loc) (up : Upset) (s : State) : State × LineRes :=
  let k := keyOf s.ctl l
  let (s1, r) := readRaw l up s
  match r with
  | .zero => (s1, resData zeroLine true)
  | .good d _ _ _ => (s1, resData d false)
  | .poison => (s1, resSt .poison)
  | .bad w syn _ _ _ =>
    if isGuarded s1.ctl ta then
      let (s2, d) := sumOthers ta s1
      match d with
      | some x => ((s2.onStore (Store.put k x)).onCtl (noteRebuild l w syn), { resData x false with cause := some .guardRebuild })
      | none => ((s2.onStore (Store.poison false k)).onCtl (noteUrbld l w syn), resSt .poison)
    else ((s1.onStore (Store.poison false k)).onCtl (noteUe l w syn), resSt .poison)

/-- Store a line, poisoned or not, at its location. -/
def storeLine (l : Loc) (d : Line) (poison : Bool) (s : State) : State :=
  (s.onCtl (touchBank l)).onStore (if poison then Store.poison false (keyOf s.ctl l) else Store.put (keyOf s.ctl l) d)

/-- Store a parity line; Lovage counts the update as a spread line, or as a zero line (R35, R269). -/
def storeParity (l : Loc) (d : Line) (s : State) : State := (storeLine l d false s).onCtl (countBeside 1 l true (allZero d))

/-- The lines that the rebuild of the parity line of `ta` reads beside the written line: the stripe's other data lines, where the parity line is
found uncorrectable or poisoned (R379, R384). -/
def parityReads (ta : Nat) (up : Upset) (s : State) : List Loc :=
  match place s.ctl (parityTa ta) with
  | none => []
  | some pl =>
    if redirectBad s.ctl pl then [] else
    match (rawRead s.store (keyOf s.ctl pl) up s.ctl.free).1 with
    | .zero => []
    | .good _ _ _ _ => []
    | _ => (stripeBut s.ctl ta).filter (fun l => decide (l ≠ pl))

/-- The parity slice applies the difference of a guarded write of `new` at `ta`, or rebuilds its line (R379, R384); one behind a lost redirect
entry is discarded (R476). A parity line that cannot be rebuilt either is stored poisoned and captured, and counts nothing under source 0x6B
(DESIGN CHOICE, log 158). -/
def applyParity (ta : Nat) (up : Upset) (diff new : Line) (s : State) : State :=
  match place s.ctl (parityTa ta) with
  | none => s
  | some pl =>
    if redirectBad s.ctl pl then s else
    let (s0, r) := readRaw pl up s
    let s1 := s0.onCtl (countBeside 1 pl false (decide (r = .zero)))
    match r with
    | .zero => storeParity pl diff s1
    | .good d _ _ _ => storeParity pl (xorLine d diff) s1
    | _ =>
      let (s2, d) := ((stripeBut s1.ctl ta).filter (fun l => decide (l ≠ pl))).foldl (sumLine 1) (s1, some new)
      let (w, syn) := match r with | .bad w syn _ _ _ => (w, syn) | _ => (0, 0)
      match d with
      | some x => (storeParity pl x s2).onCtl (noteParity pl)
      | none => (storeLine pl zeroLine true s2).onCtl (captureLine 0x04 pl w syn)

/-- Old content of a line as R378 counts it. -/
def countedAs (r : LineRes) : Line := if r.st = .ok then r.data else zeroLine

/-- Write a line whole, with its parity at once where the region is guarded (R379). -/
def writeLine (ta : Nat) (l : Loc) (old : LineRes) (d : Line) (poison : Bool) (s : State) : State :=
  let new := if poison then zeroLine else d
  let s1 := if isGuarded s.ctl ta && !isParity s.ctl ta then applyParity ta [] (xorLine (countedAs old) new) new s else s
  storeLine l d poison s1

end Sys2Proof.Machine
end

