-- ==== Sys2Proof/Machine/Float.lean ====
section
/-! DEFINITION. Numbers of the stored formats at their exact values, their encodings, the two rounding modes, and the sums,
products and maxima that the fold units form (R224, R241, R244, R246, R285..R287). -/

namespace Sys2Proof.Machine

/-- An exact element value: (-1)^neg m 2^e, an infinity, or a NaN. -/
inductive Exact where
  | nan
  | inf (neg : Bool)
  | fin (neg : Bool) (m : Nat) (e : Int)
deriving DecidableEq, Repr

/-- What the top exponent of an encoding means: infinities and NaN, one NaN only (E4M3), or ordinary numbers (R224). -/
inductive Top where
  | ieee | e4m3 | finite
deriving DecidableEq, Repr

/-- A floating-point element type of Table 6-2, or INT8 as an integer times 2^-6. -/
inductive Elem where
  | flt (ebits mbits : Nat) (top : Top)
  | int8
deriving DecidableEq, Repr

def fp32 : Elem := .flt 8 23 .ieee
def bf16 : Elem := .flt 8 7 .ieee
def fp16 : Elem := .flt 5 10 .ieee
def e4m3 : Elem := .flt 4 3 .e4m3
def e5m2 : Elem := .flt 5 2 .ieee
def e3m2 : Elem := .flt 3 2 .finite
def e2m3 : Elem := .flt 2 3 .finite
def e2m1 : Elem := .flt 2 1 .finite

/-- Bits of an element. -/
def Elem.width (t : Elem) : Nat :=
  match t with
  | .flt e m _ => 1 + e + m
  | .int8 => 8

/-- The exponent bias of an `eb`-bit exponent. -/
def bias (eb : Nat) : Int := 2 ^ (eb - 1) - 1

/-- The value that an encoding names (R224). -/
def Elem.decode (t : Elem) (n : Nat) : Exact :=
  match t with
  | .int8 => if n % 256 < 128 then .fin false (n % 256) (-6) else .fin true (256 - n % 256) (-6)
  | .flt eb mb top =>
    let neg := n.testBit (eb + mb)
    let ex := nbits n mb eb
    let fr := nbits n 0 mb
    let num := if ex = 0 then Exact.fin neg fr (1 - bias eb - mb) else Exact.fin neg (2 ^ mb + fr) (ex - bias eb - mb)
    match top with
    | .finite => num
    | .e4m3 => if ex = 2 ^ eb - 1 ∧ fr = 2 ^ mb - 1 then .nan else num
    | .ieee => if ex = 2 ^ eb - 1 then (if fr = 0 then .inf neg else .nan) else num

/-- The canonical NaN that Fennel writes (Table 6-2); all ones where the type has none. -/
def Elem.nan (t : Elem) : Nat :=
  match t with
  | .int8 => 0xFF
  | .flt eb mb .ieee => if eb = 5 ∧ mb = 2 then 0x7F else (2 ^ eb - 1) <<< mb ||| 2 ^ (mb - 1)
  | .flt eb mb .e4m3 => 2 ^ (eb + mb) - 1
  | .flt eb mb .finite => 2 ^ (1 + eb + mb) - 1

/-- Exponent and mantissa fields of the largest finite magnitude. -/
def Elem.top (t : Elem) : Nat × Nat :=
  match t with
  | .int8 => (0, 127)
  | .flt eb mb .ieee => (2 ^ eb - 2, 2 ^ mb - 1)
  | .flt eb mb .e4m3 => (2 ^ eb - 1, 2 ^ mb - 2)
  | .flt eb mb .finite => (2 ^ eb - 1, 2 ^ mb - 1)

/-- A rounding mode, with the draw of R246 for stochastic rounding. -/
inductive Rnd where
  | rne
  | stoch (draw : Nat)
deriving DecidableEq, Repr

/-- Round `m / 2^sh` to a whole number (R246). -/
def roundShift (r : Rnd) (m sh : Nat) : Nat :=
  let i := m >>> sh
  let rem := m % 2 ^ sh
  match r with
  | .rne => if 2 ^ sh < 2 * rem ∨ (2 ^ sh = 2 * rem ∧ i % 2 = 1) then i + 1 else i
  | .stoch d => if 2 ^ 16 ≤ (rem * 2 ^ 16) / 2 ^ sh + d then i + 1 else i

/-- Round magnitude `m 2^e` to whole units of 2^q. -/
def roundTo (r : Rnd) (m : Nat) (e q : Int) : Nat :=
  if q ≤ e then m * 2 ^ (e - q).toNat else roundShift r m (q - e).toNat

/-- What a magnitude beyond the largest finite one becomes. -/
inductive Over where
  | saturate | infinity
deriving DecidableEq, Repr

/-- An encoding, and whether a finite value was replaced because it lay beyond the range. -/
structure Enc where
  code : Nat
  sat : Bool
deriving DecidableEq, Repr

def signBit (t : Elem) (neg : Bool) : Nat := if neg then 2 ^ (t.width - 1) else 0

/-- Encode a value in an element type (R244, R286). An infinity in a type without one takes the largest finite magnitude
(R244 for E4M3), and is not counted as saturated (log 99). -/
def Elem.encode (t : Elem) (r : Rnd) (o : Over) (x : Exact) : Enc :=
  match x with
  | .nan => ⟨t.nan, false⟩
  | .inf neg =>
    match t with
    | .flt eb mb .ieee => ⟨signBit t neg + (2 ^ eb - 1) <<< mb, false⟩
    | .flt _ mb _ => ⟨signBit t neg + t.top.1 <<< mb + t.top.2, false⟩
    | .int8 => ⟨if neg then 129 else 127, false⟩
  | .fin neg m e =>
    match t with
    | .int8 =>
      let v := roundTo r m e (-6)
      let w := min v 127
      ⟨if neg then (256 - w) % 256 else w, decide (127 < v)⟩
    | .flt eb mb top =>
      if m = 0 then ⟨signBit t neg, false⟩ else
        let q := max ((bitLen m : Int) - 1 + e) (1 - bias eb) - mb
        let i := roundTo r m e q
        let big := decide (i = 2 ^ (mb + 1))
        let i' := if big then 2 ^ mb else i
        let q' := if big then q + 1 else q
        if i' < 2 ^ mb then ⟨signBit t neg + i', false⟩ else
          let ex := q' + mb + bias eb
          let fr := i' - 2 ^ mb
          let past := decide (ex > t.top.1 ∨ (ex = t.top.1 ∧ fr > t.top.2))
          if past then
            match o, top with
            | .infinity, .ieee => ⟨signBit t neg + (2 ^ eb - 1) <<< mb, true⟩
            | _, _ => ⟨signBit t neg + t.top.1 <<< mb + t.top.2, true⟩
          else ⟨signBit t neg + ex.toNat <<< mb + fr, false⟩

/-- The exact sum (R286): +0 unless both addends are -0; an infinity minus an infinity is NaN. -/
def Exact.add (a b : Exact) : Exact :=
  match a, b with
  | .nan, _ => .nan
  | _, .nan => .nan
  | .inf s, .inf t => if s = t then .inf s else .nan
  | .inf s, .fin .. => .inf s
  | .fin .., .inf t => .inf t
  | .fin s m e, .fin t n f =>
    let g := min e f
    let x : Int := (if s then -1 else 1) * (m * 2 ^ (e - g).toNat : Nat)
    let y : Int := (if t then -1 else 1) * (n * 2 ^ (f - g).toNat : Nat)
    let z := x + y
    if z = 0 then .fin (s && t && decide (m = 0) && decide (n = 0)) 0 0 else .fin (decide (z < 0)) z.natAbs g

/-- The exact product; an infinity times zero is NaN (log 13). -/
def Exact.mul (a b : Exact) : Exact :=
  match a, b with
  | .nan, _ => .nan
  | _, .nan => .nan
  | .inf s, .inf t => .inf (s != t)
  | .inf s, .fin t n _ => if n = 0 then .nan else .inf (s != t)
  | .fin s m _, .inf t => if m = 0 then .nan else .inf (s != t)
  | .fin s m e, .fin t n f => .fin (s != t) (m * n) (e + f)

/-- `a < b` on values that are not NaN; the two zeros compare equal. -/
def Exact.lt (a b : Exact) : Bool :=
  match a, b with
  | .nan, _ => false
  | _, .nan => false
  | .inf s, .inf t => s && !t
  | .inf s, .fin .. => s
  | .fin .., .inf t => !t
  | .fin s m e, .fin t n f =>
    let g := min e f
    let x : Int := (if s then -1 else 1) * (m * 2 ^ (e - g).toNat : Nat)
    let y : Int := (if t then -1 else 1) * (n * 2 ^ (f - g).toNat : Nat)
    decide (x < y)

/-- MAX (R287): NaN when either is NaN, and +0 of two zeros of unlike sign. -/
def Exact.max (a b : Exact) : Exact :=
  match a, b with
  | .nan, _ => .nan
  | _, .nan => .nan
  | .fin s 0 _, .fin t 0 _ => .fin (s && t) 0 0
  | x, y => if x.lt y then y else x

/-- Not equal to zero (for the pruned count of R261). -/
def Exact.nonzero (a : Exact) : Bool :=
  match a with
  | .fin _ m _ => decide (m ≠ 0)
  | _ => true

/-- The magnitude, a NaN above every number (R244 prune). -/
def Exact.rankLt (a b : Exact) : Bool :=
  match a, b with
  | .nan, _ => false
  | _, .nan => true
  | .inf _, _ => false
  | .fin .., .inf _ => true
  | .fin _ m e, .fin _ n f =>
    let g := min e f
    decide (m * 2 ^ (e - g).toNat < n * 2 ^ (f - g).toNat)

/-- Sixteen steps of the LFSR of R250, sixteen counted down by `n`. -/
def lfsrSteps (n s : Nat) : Nat :=
  match n with
  | 0 => s
  | k + 1 => lfsrSteps k (if s % 2 = 1 then (s / 2) ^^^ 0x80200003 else s / 2)

/-- One draw (R250): the new state, whose low 16 bits are the value drawn. -/
def lfsrDraw (s : Nat) : Nat := lfsrSteps 16 s

/-- The state after `n` draws. -/
def lfsrAfter (n s : Nat) : Nat :=
  match n with
  | 0 => s
  | k + 1 => lfsrAfter k (lfsrDraw s)

/-- The value of draw number `n`, counted from 0, of a stream in state `s`. -/
def lfsrValue (s n : Nat) : Nat := lfsrAfter (n + 1) s % 2 ^ 16

/-- The values of `n` consecutive draws. -/
def lfsrValues (n s : Nat) : List Nat :=
  match n with
  | 0 => []
  | k + 1 => let t := lfsrDraw s; t % 2 ^ 16 :: lfsrValues k t

end Sys2Proof.Machine
end

