-- ==== Sys2Proof/Machine/Fennel.lean ====
section
/-! DEFINITION. The stored formats and the Fennel codec: format codes, side plane, format units, expansion, quantisation and the view
streams (R222..R249). -/

namespace Sys2Proof.Machine

inductive Family where
  | dense | nm | mx
deriving DecidableEq, Repr

/-- Geometry of a stored format (Table 6-4): family, element, kept per group, group size, dense positions per payload line, bytes of a
side entry (0 where there is no side plane, layout D). -/
structure Geo where
  fam : Family
  elem : Elem
  n : Nat
  m : Nat
  e : Nat
  entry : Nat
deriving DecidableEq, Repr

def denseGeo (t : Elem) : Geo := ⟨.dense, t, 1, 1, 512 / t.width, 0⟩
def nmGeo (n m : Nat) (t : Elem) : Geo := ⟨.nm, t, n, m, 512 / t.width * m / n, if t.width = 8 then 16 else 8⟩
def mxGeo (t : Elem) (e : Nat) : Geo := ⟨.mx, t, 32, 32, e, 8⟩

/-- The NM element types of Table 6-1. -/
def nmElem (i : Nat) : Elem := if i = 1 then bf16 else if i = 2 then fp16 else if i = 3 then e4m3 else e5m2

/-- The geometry that a format code names; `none` for a reserved code (R222). -/
def geoOf (code : Nat) : Option Geo :=
  if code = 0x00 then some (denseGeo fp32)
  else if code = 0x01 then some (denseGeo bf16)
  else if code = 0x02 then some (denseGeo fp16)
  else if code = 0x03 then some (denseGeo e4m3)
  else if code = 0x04 then some (denseGeo e5m2)
  else if 0x41 ≤ code ∧ code ≤ 0x44 then some (nmGeo 2 4 (nmElem (code - 0x40)))
  else if 0x51 ≤ code ∧ code ≤ 0x54 then some (nmGeo 1 4 (nmElem (code - 0x50)))
  else if 0x61 ≤ code ∧ code ≤ 0x64 then some (nmGeo 4 8 (nmElem (code - 0x60)))
  else if code = 0x80 then some (mxGeo e4m3 64)
  else if code = 0x81 then some (mxGeo e5m2 64)
  else if code = 0x82 then some (mxGeo e3m2 64)
  else if code = 0x83 then some (mxGeo e2m3 64)
  else if code = 0x84 then some (mxGeo e2m1 128)
  else if code = 0x85 then some (mxGeo .int8 64)
  else none

/-- The geometry of a stored region, whose code is never reserved. -/
def geo (code : Nat) : Geo := (geoOf code).getD (denseGeo fp32)

/-- Octants of the payload part (R225): 8 in layout D, 7 in A, 6 in B. -/
def Geo.octants (g : Geo) : Nat := if g.entry = 0 then 8 else if g.entry = 8 then 7 else 6

/-- side_place of R226: the side line within the region and the entry index of payload line `l`. -/
def sidePlace (g : Geo) (spread : Bool) (l : Nat) : Nat × Nat :=
  let o := nbits l 12 3
  let t := if g.entry = 8 then 7 else 6 + o / 3
  let e := if g.entry = 8 then o else o % 3
  let ls :=
    if spread then
      let hi := nbits l 7 5 ^^^ (nbits l 14 1 ^^^ nbits t 2 1)
      let lo := nbits l 0 7 ^^^ ((nbits l 12 2 ^^^ nbits t 0 2) <<< 5)
      t <<< 12 ||| hi <<< 7 ||| lo
    else t <<< 12 ||| nbits l 3 9 <<< 3 ||| (nbits l 0 3 ^^^ o ^^^ t)
  (ls, e)

/-- A little-endian line or entry as a number. -/
def fieldAt (n w i : Nat) : Nat := nbits n (i * w) w

/-- Multiply by 2^k. -/
def Exact.shift (x : Exact) (k : Int) : Exact :=
  match x with
  | .fin s m e => .fin s m (e + k)
  | y => y

/-- The set bit positions of a mask of `n` bits, ascending. -/
def setBitsOf (n mask : Nat) : List Nat := (List.range n).filter mask.testBit

/-- The kept index delivered at position `k` of group `i`, if any (R229, R230). -/
def keptAt (g : Geo) (side i k : Nat) : Option Nat :=
  if g.m = 8 then
    let set := setBitsOf 8 (fieldAt side 8 i)
    let j := set.idxOf k
    if j < set.length ∧ j < 4 then some (4 * i + j) else none
  else if g.n = 2 then
    let f := fieldAt side 4 i
    if nbits f 2 2 = k then some (2 * i + 1) else if nbits f 0 2 = k then some (2 * i) else none
  else if fieldAt side 2 i = k then some i else none

/-- A group whose side metadata breaks the rules of Table 6-5 (R230). -/
def malformed (g : Geo) (side i : Nat) : Bool :=
  if g.m = 8 then decide ((setBitsOf 8 (fieldAt side 8 i)).length ≠ 4)
  else if g.n = 2 then decide (nbits (fieldAt side 4 i) 2 2 ≤ nbits (fieldAt side 4 i) 0 2)
  else false

/-- Malformed groups of a unit. -/
def malformedCount (g : Geo) (side : List Byte) : Nat :=
  if g.fam = .nm then ((List.range (g.e / g.m)).filter (malformed g (leNat side))).length else 0

def Exact.zero : Exact := .fin false 0 0

/-- The exact value of dense position `p` of a format unit (R241). -/
def valueAt (g : Geo) (pay side p : Nat) : Exact :=
  match g.fam with
  | .dense => g.elem.decode (fieldAt pay g.elem.width p)
  | .nm =>
    match keptAt g side (p / g.m) (p % g.m) with
    | some j => g.elem.decode (fieldAt pay g.elem.width j)
    | none => .zero
  | .mx =>
    let v := fieldAt side 8 (p / 32)
    if v = 255 then .nan else (g.elem.decode (fieldAt pay g.elem.width p)).shift (v - 127)

/-- The values of a format unit; zero at every position of a zero line (R242). -/
def expandUnit (g : Geo) (pay : Line) (side : List Byte) (zero : Bool) : List Exact :=
  if zero then List.replicate g.e .zero
  else
    let p := leNat pay
    let s := leNat side
    (List.range g.e).map (valueAt g p s)

/-- Element type and bytes of the dense and pack views (R234): `vty` is FP32. -/
def viewElem (vty : Bool) : Elem := if vty then fp32 else bf16
def viewLen (vty : Bool) : Nat := if vty then 16 else 32

/-- View bytes of a value (R241): RNE, beyond the range an infinity, NaN canonical. -/
def viewBytes (vty : Bool) (x : Exact) : List Byte :=
  leBytes (if vty then 4 else 2) ((viewElem vty).encode .rne .infinity x).code

/-- The input elements of a view line. -/
def viewValues (vty : Bool) (l : Line) : List Exact :=
  let n := leNat l
  (List.range (viewLen vty)).map (fun i => (viewElem vty).decode (fieldAt n (viewElem vty).width i))

/-- What quantisation of a unit yields: payload line, side entry, and the counts of R261. -/
structure Quant where
  pay : Line
  entry : List Byte
  sat : Nat
  nanBlocks : Nat
  pruned : Nat
deriving DecidableEq, Repr

/-- Rounding of position `p` of a unit: `draws` is empty for RNE. -/
def rndAt (draws : List Nat) (p : Nat) : Rnd := match draws[p]? with | some d => .stoch d | none => .rne

/-- The positions of the `n` largest of a group, ascending (R244): a NaN ranks first, of equal ranks the lower position. -/
def keepLargest (n : Nat) (xs : List (Nat × Exact)) : List Nat :=
  let beats (a b : Nat × Exact) : Bool := b.2.rankLt a.2 || (!a.2.rankLt b.2 && decide (a.1 < b.1))
  (xs.filter (fun x => decide ((xs.filter (fun y => beats y x)).length < n))).map Prod.fst

/-- Largest magnitude of a block as mantissa and exponent. -/
def amax (xs : List Exact) : Nat × Int :=
  xs.foldl (fun a x => match x with
    | .fin _ m e => if Exact.rankLt (.fin false a.1 a.2) (.fin false m e) then (m, e) else a
    | _ => a) (0, 0)

/-- emax of an MX element type (R245). -/
def emax (t : Elem) : Int :=
  match t with
  | .int8 => 0
  | .flt 4 _ _ => 8
  | .flt 5 _ _ => 15
  | .flt 3 _ _ => 4
  | .flt _ _ _ => 2

/-- A number has a finite value. -/
def Exact.isFin (x : Exact) : Bool := match x with | .fin .. => true | _ => false

/-- The E8M0 scale of a block (Table 6-6). -/
def mxScale (t : Elem) (xs : List Exact) : Nat :=
  if xs.all Exact.isFin then
    let (m, e) := amax xs
    if m = 0 then 0
    else
      let x : Int := (bitLen m : Int) - 1 + e - emax t + 127
      if x < 0 then 0 else if 254 < x then 254 else x.toNat
  else 255

/-- Concatenate codes of `w` bits, the first lowest. -/
def packCodes (w : Nat) (cs : List Nat) : Nat := cs.foldr (fun c a => c % 2 ^ w + a * 2 ^ w) 0

/-- Quantise the dense positions of one payload line (R244..R247). -/
def quantUnit (g : Geo) (draws : List Nat) (xs : List Exact) : Quant :=
  let enc (p : Nat) (x : Exact) : Enc := g.elem.encode (rndAt draws p) .saturate x
  match g.fam with
  | .dense =>
    let es := xs.zipIdx.map (fun (x, p) => enc p x)
    ⟨leBytes 64 (packCodes g.elem.width (es.map Enc.code)), [], (es.filter Enc.sat).length, 0, 0⟩
  | .nm =>
    let kept := (List.range (g.e / g.m)).map (fun i =>
      keepLargest g.n ((List.range g.m).map (fun k => (k, xs.getD (i * g.m + k) .zero))))
    let pos := (kept.zipIdx.map (fun (ks, i) => ks.map (fun k => i * g.m + k))).flatten
    let es := pos.map (fun p => enc p (xs.getD p .zero))
    let side :=
      if g.m = 8 then packCodes 8 (kept.map (fun ks => ks.foldl (fun a k => a + 2 ^ k) 0))
      else packCodes (2 * g.n) (kept.map (packCodes 2))
    ⟨leBytes 64 (packCodes g.elem.width (es.map Enc.code)), leBytes g.entry side, (es.filter Enc.sat).length, 0,
      ((List.range g.e).filter (fun p => !pos.contains p && (xs.getD p .zero).nonzero)).length⟩
  | .mx =>
    let blocks := (List.range (g.e / 32)).map (fun j => (xs.drop (32 * j)).take 32)
    let scales := blocks.map (mxScale g.elem)
    let es := xs.zipIdx.map (fun (x, p) =>
      let v := scales.getD (p / 32) 0
      if v = 255 then (⟨2 ^ g.elem.width - 1, false⟩ : Enc) else enc p (x.shift (127 - v)))
    ⟨leBytes 64 (packCodes g.elem.width (es.map Enc.code)), leBytes 8 (packCodes 8 scales), (es.filter Enc.sat).length,
      (scales.filter (fun v => decide (v = 255))).length, 0⟩

/-- What a view line draws on (R234, R235): nothing servable, nothing populated, or its payload lines (as requested addresses). -/
inductive ViewOf where
  | unsupported
  | absent
  | units (tas : List Nat)
deriving DecidableEq, Repr

/-- Line number of a canonical address within its 2 MiB region. -/
def lineInRegion (ta : Nat) : Nat := ta % 0x200000 / 64

/-- The payload line at canonical address `ta` lies in the reach of a stream that begins at `base` (R235, R236). -/
def inReach (c : Ctl) (base ta : Nat) : Bool :=
  match regionOf base, regionOf ta with
  | some n, some m =>
    decide (lineInRegion ta / 4096 < (geo (regionFmt c m)).octants) &&
      (decide (n = m) || ((geo (regionFmt c n)).fam = .dense &&
        (List.range (m - n + 1)).all (fun i => decide (regionFmt c (n + i) = regionFmt c n))))
  | none, none => decide (windowOf c base = windowOf c ta)
  | _, _ => false

/-- One payload line of a stream: 2 unsupported, 1 absent, 0 servable. -/
def unitClass (c : Ctl) (remap : Bool) (base ta : Nat) : Nat :=
  let t := canonTa remap ta
  match windowOf c t with
  | .regs => 2
  | .none => 1
  | _ => if inReach c (canonTa remap base) t && !isParity c t then 0 else 2

/-- The addresses of the payload lines that view line `i` draws on. -/
def viewUnits (c : Ctl) (remap : Bool) (base : Nat) (vty : Bool) (i : Nat) : List Nat :=
  let e := (geo (fmtOf c (canonTa remap base))).e
  let v := viewLen vty
  (List.range ((i * v + v - 1) / e - i * v / e + 1)).map (fun k => base + 64 * (i * v / e + k))

/-- The units that view line `i` draws on. -/
def viewOf (c : Ctl) (remap : Bool) (base : Nat) (vty : Bool) (i : Nat) : ViewOf :=
  let us := viewUnits c remap base vty i
  let cls := us.foldl (fun a u => max a (unitClass c remap base u)) 0
  if cls = 2 then .unsupported else if cls = 1 then .absent else .units us

/-- Number of payload lines that `len` view lines draw on. -/
def unitCount (g : Geo) (vty : Bool) (len : Nat) : Nat := ceilDiv (len * viewLen vty) g.e

/-- The side line and entry of the unit whose payload line is at canonical `ta`: address, first byte, bytes. -/
def sideOf (c : Ctl) (ta : Nat) : Option (Nat × Nat × Nat) :=
  match regionOf ta with
  | none => none
  | some n =>
    let g := geo (regionFmt c n)
    if g.entry = 0 then none
    else
      let (ls, e) := sidePlace g (decide (n < 4096)) (lineInRegion ta)
      some (regionBase n + 64 * ls, g.entry * e, g.entry)

/-- The stored-view line at canonical `ta` is a side line (R254). -/
def isSideLine (c : Ctl) (ta : Nat) : Bool :=
  match regionOf ta with
  | none => false
  | some n => decide ((geo (regionFmt c n)).octants ≤ lineInRegion ta / 4096)

end Sys2Proof.Machine
end

