-- ==== Sys2Proof/Machine/Slice.lean ====
section
/-! DEFINITION. The slice controllers: arbitration, meetings of two requests on one line, the service of every kind of line access,
and guarded writes (R16, R95, R96, R105, R111, R118..R120, R231, R263..R273, R285..R292, R379, R382). -/

namespace Sys2Proof.Machine

/-- The lines that an access touches: its own, and the side line of a format unit. -/
def LineOp.lines (o : LineOp) : List Nat :=
  match o.acc with
  | .unitRead side _ _ => [o.ta, side]
  | .unitWrite _ _ side _ _ => [o.ta, side]
  | _ => [o.ta]

def Acc.isWrite (a : Acc) : Bool :=
  match a with
  | .write .. => true
  | .unitWrite .. => true
  | .fold .. => true
  | _ => false

def Acc.isView (a : Acc) : Bool :=
  match a with
  | .unitRead .. => true
  | .unitWrite .. => true
  | _ => false

/-- The physical slice that serves an access now (R399). -/
def opSlice (c : Ctl) (o : LineOp) : Option Nat := (place c o.ta).map (fun l => redirect c l.s l.x)

/-- Effective QoS (R111, R112). -/
def effQos (c : Ctl) (o : LineOp) : Nat := if bit (reg c brlCfg) 31 then min 15 (o.qos + o.age / 256) else min 15 o.qos

/-- `a` is granted before `b` (R111). -/
def grantsBefore (c : Ctl) (a b : LineOp) : Bool :=
  decide (effQos c b < effQos c a) || (decide (effQos c a = effQos c b) && decide (a.came < b.came))

/-- The access granted first of a list. -/
def firstGranted (c : Ctl) (os : List LineOp) : Option LineOp :=
  os.foldl (fun m o => match m with
    | none => some o
    | some x => if grantsBefore c o x then some o else some x) none

/-- A guarded write holds one of these lines (R379). -/
def heldLine (c : Ctl) (tas : List Nat) : Bool := c.port.parity.any (fun j => j.op.lines.any (fun t => tas.contains t))

/-- Whether the line at `ta` can be accessed; a write is held at the watermark line (R399). One that needs a lost redirect entry waits for
nothing: it is answered without its slice (R476). -/
def lineAvail (s : State) (ta : Nat) (tagOnly write : Bool) : Avail :=
  match place s.ctl ta with
  | none => .absent
  | some l =>
    if redirectBad s.ctl l then .ready
    else if write && atWatermark s.ctl l.s l.x then .wait (some .migration)
    else avail s.ctl l (!tagOnly && (write || !s.store.isZero (keyOf s.ctl l)))

/-- Combine the availability of two lines. -/
def Avail.and (a b : Avail) : Avail :=
  match a, b with
  | .wait c, .wait d => .wait (lowCause c d)
  | .wait c, _ => .wait c
  | _, .wait c => .wait c
  | .absent, _ => .absent
  | _, .absent => .absent
  | _, _ => .ready

/-- Whether the stored lines at `ls` can be read beside the line of an access, for a rebuild or a stripe check: a bundle or a bank that is to
wake keeps them waiting (R210, R211, R380, R381); the lines of a bank in OFF count as zeros. -/
def readsAvail (s : State) (ls : List Loc) : Avail :=
  (ls.filter (fun l => !redirectBad s.ctl l)).foldl
    (fun a l => a.and (match avail s.ctl l (!s.store.isZero (keyOf s.ctl l)) with | .absent => .ready | x => x)) .ready

/-- A guarded write that holds one of these lines waits at the watermark of a migration (R380). -/
def heldCause (c : Ctl) (tas : List Nat) : Option Cause :=
  if c.port.parity.any (fun j => j.op.lines.any (fun t => tas.contains t) && decide (j.res.cause = some .migration)) then some .migration
  else none

/-- The array finds an uncorrectable word in the line at `l` after the upset `up`. -/
def rawBad (s : State) (l : Loc) (up : Upset) : Bool :=
  match (rawRead s.store (keyOf s.ctl l) up s.ctl.free).1 with | .bad _ _ _ _ _ => true | _ => false

/-- The lines that the slice reads as it serves an access: none for zero bits; the side line of a unit only where its payload line is neither
a zero line nor poisoned (R242), and not yet for a pack write, whose side entry is written as the guarded write ends (R379). -/
def LineOp.reads (s : State) (o : LineOp) : List Nat :=
  match o.acc with
  | .tag => []
  | .unitRead side _ _ =>
    match place s.ctl o.ta with
    | some l => if s.store.isZero (keyOf s.ctl l) || s.store.isPoison (keyOf s.ctl l) then [o.ta] else [o.ta, side]
    | none => [o.ta]
  | _ => [o.ta]

/-- The guarded lines that an access reads and whose stripes have to be read with them, to rebuild them (R379, R381). -/
def rebuildTas (s : State) (o : LineOp) : List Nat :=
  (o.reads s).filter (fun t => isGuarded s.ctl t
    && (match place s.ctl t with | some l => !redirectBad s.ctl l && rawBad s l [] | none => false))

/-- The rebuild that an access needs has been found and marked (R150, R381). -/
def LineOp.marked (o : LineOp) : Bool := decide (o.cause = some .guardRebuild)

/-- The stripes that an access reads: none before the rebuild has been marked. -/
def stripesOf (s : State) (o : LineOp) : List Loc := if o.marked then (rebuildTas s o).flatMap (stripeBut s.ctl) else []

/-- Two accesses meet on a line (R233): two view accesses only on one payload line, any other pair on any common line. A read of zero
bits holds no bank. -/
def meets (a b : LineOp) : Bool :=
  if a.acc = .tag ∨ b.acc = .tag then false
  else if a.acc.isView && b.acc.isView then decide (a.ta = b.ta)
  else a.lines.any (fun t => b.lines.contains t)

/-- Two privileged requests meet where `o` reads a line that a guarded write holds: the slice skips the collision check, and the read does not
wait (R119). It waits for a guarded write that holds one of its lines and does not meet it (R231, R233). -/
def passesHold (c : Ctl) (o : LineOp) : Bool :=
  o.priv && !o.acc.isWrite && decide (o.acc ≠ .tag) && heldLine c o.lines
    && c.port.parity.all (fun j => (j.op.priv && meets j.op o) || !j.op.lines.any (fun t => o.lines.contains t))

/-- Whether an access can be served now; one whose line is being rebuilt needs the stripe's other lines (R381). -/
def opAvail (s : State) (o : LineOp) : Avail :=
  if heldLine s.ctl o.lines && !passesHold s.ctl o then .wait (heldCause s.ctl o.lines)
  else
    (readsAvail s (stripesOf s o)).and <|
    match o.acc with
    | .tag => lineAvail s o.ta true false
    | .read => lineAvail s o.ta false false
    | .unitRead side _ _ =>
      match place s.ctl o.ta with
      | none => .absent
      | some l => if s.store.isZero (keyOf s.ctl l) then lineAvail s o.ta false false
          else (lineAvail s o.ta false false).and (lineAvail s side false false)
    | .unitWrite _ _ side _ _ => (lineAvail s o.ta false true).and (lineAvail s side false true)
    | _ => lineAvail s o.ta false true

/-- Waiting access `p`, passed over, keeps `o` from its line: a read does not wait behind a write that waits, unless both are privileged
(R118, R119). -/
def blocks (p o : LineOp) : Bool :=
  p.lines.any (fun t => o.lines.contains t) && (o.acc.isWrite || !p.acc.isWrite || (p.priv && o.priv))

/-- Take the first access, in grant order, that can be served and whose line no earlier waiting access holds; also the accesses passed
over. -/
def pickFrom (s : State) (fuel : Nat) (os passed : List LineOp) : Option LineOp × List LineOp :=
  match fuel with
  | 0 => (none, passed)
  | n + 1 =>
    match firstGranted s.ctl os with
    | none => (none, passed)
    | some o =>
      match opAvail s o with
      | .wait _ => pickFrom s n (os.filter (fun x => decide (x ≠ o))) (o :: passed)
      | _ => if passed.any (fun p => blocks p o) then pickFrom s n (os.filter (fun x => decide (x ≠ o))) (o :: passed) else (some o, passed)

/-- The accesses that wait at physical slice `p`, and what its arbiter grants of them with those passed over. -/
def waitingAt (s : State) (p : Nat) : List LineOp := s.ctl.port.ops.filter (fun o => decide (opSlice s.ctl o = some p))
def pickAt (s : State) (p : Nat) : Option LineOp × List LineOp := pickFrom s (waitingAt s p).length (waitingAt s p) []

/-- Replace an access in the list of accesses under way. -/
def replaceOp (o o' : LineOp) (os : List LineOp) : List LineOp := os.map (fun x => if x = o then o' else x)

/-- The flags of the pair when `a`, decided first, is met by `b` (R119): the read of a read and a write has undefined data, and both it
and the request decided second carry busy. -/
def meetFlags (a b : LineOp) : LineOp × LineOp :=
  if a.priv && b.priv && (a.acc.isWrite || b.acc.isWrite) then
    (if a.acc.isWrite then a else { a with busy := true, undef := true },
      if b.acc.isWrite then { b with busy := true } else { b with busy := true, undef := true })
  else (a, b)

/-- Passed-over accesses carry the cause of their wait and ask for wakes (R150, R416). -/
def markWait (s : State) (o : LineOp) (c : Ctl) : Ctl :=
  match opAvail s o with
  | .wait k =>
    let o' := { o with cause := lowCause o.cause k }
    let c1 := { c with port := { c.port with ops := replaceOp o o' c.port.ops } }
    if k = some .retWake then
      (o.lines.filterMap (place c) ++ stripesOf s o).foldl (fun c l => wantWake l c) c1
    else c1
  | _ => c

/-- Queue helpers. -/
def queueOf (c : Ctl) (q : Nat) : Queue := tabGet Queue.rest c.mov.q q
def setQueue (q : Nat) (v : Queue) (c : Ctl) : Ctl := { c with mov := { c.mov with q := tabPut Queue.rest q v c.mov.q } }
def modRun (q : Nat) (f : Run → Run) (c : Ctl) : Ctl :=
  let x := queueOf c q
  match x.run with
  | some r => setQueue q { x with run := some (f r) } c
  | none => c

/-- Precedence of command statuses (R317). -/
def CmdStatus.rank (s : CmdStatus) : Nat :=
  match s with
  | .ok => 0
  | .poison => 1
  | .absent => 2
  | .fenced => 3
  | .unsupported => 4
  | .broken => 5
  | .aborted => 6

def worstCmd (a b : CmdStatus) : CmdStatus := if a.rank < b.rank then b else a

def Status.toCmd (s : Status) : CmdStatus :=
  match s with
  | .ok => .ok
  | .poison => .poison
  | .absent => .absent
  | .fenced => .fenced
  | .unsupported => .unsupported

/-- A line of a command completes with a status (R316, R317). -/
def Run.lineDone (st : CmdStatus) (r : Run) : Run :=
  { r with st := worstCmd r.st st, bad := if st = .ok then r.bad else satAdd 32 r.bad 1 }

/-- Byte 0 of a record's word 0 (Table 8-3), and fields of its words. -/
def Run.word (r : Run) (i : Nat) : Nat := r.words.getD i 0
def Run.op (r : Run) : Nat := r.word 0 % 256

/-- The source, or the destination, of the command lies in system address space (Table 8-3). -/
def Run.srcSa (r : Run) : Bool := (r.word 0).testBit 10 && [1, 3, 4, 7, 10].contains r.op
def Run.dstSa (r : Run) : Bool := (r.word 0).testBit 11 && [1, 2, 3, 4, 8].contains r.op

/-- Keys of a command's accesses: source line `n`, destination line `n`, index or list line `n`, other writes. -/
def rKey (n : Nat) : Nat := 4 * (2 * n + 1)
def wKey (n : Nat) : Nat := 4 * (2 * n)
def listKey (n : Nat) : Nat := 4 * n + 1
def auxKey (n : Nat) : Nat := 4 * n + 2

/-- An access of a command returns: a read is kept for its line; a write completes the line with the status of highest precedence of its
source and itself (R310, R316, R317, R545). -/
def Run.got (write : Bool) (key : Nat) (res : LineRes) (r : Run) : Run :=
  let r1 := { r with outstanding := r.outstanding - 1 }
  if write then
    let st := worst (match tabFind r.buf key with | some x => x.st | none => .ok) res.st
    let r2 := { (r1.lineDone st.toCmd) with buf := tabDel key r1.buf }
    if key % 4 ≠ 0 then r2
    else
      let row := key / 8 / nbits (r.word 3) 0 32
      { r2 with
        done := r2.done + 1
        badRows := if st ≠ .ok ∧ (r.op = 3 ∨ r.op = 4) then insertNew row r2.badRows else r2.badRows }
  else
    let r2 := { r1 with buf := tabIns key res r1.buf }
    if key % 4 = 1 ∧ res.st ≠ .ok then r2.lineDone res.st.toCmd else r2

/-- Store the result of line `i` of request `id`. -/
def setReqRes (id i : Nat) (res : LineRes) (c : Ctl) : Ctl :=
  { c with port := { c.port with reqs := c.port.reqs.map (fun r =>
      if r.id = id then { r with res := tabIns i res r.res, cause := lowCause r.cause res.cause } else r) } }

/-- Hand a result to the access's owner (R101, R175, R183, R325). -/
def recordRes (o : LineOp) (res : LineRes) (c : Ctl) : Ctl :=
  let res := { res with busy := res.busy || o.busy, cause := lowCause res.cause o.cause }
  match o.owner with
  | .req id i => setReqRes id i res c
  | .wc _ ms => ms.foldl (fun c m => setReqRes m.1 m.2 res c) c
  | .mover q key => modRun q (Run.got o.acc.isWrite key res) c
  | .land k => { c with lnd := { c.lnd with land := c.lnd.land.map (fun x => if x.id = k then { x with out := some res.st } else x) } }
  | .record q =>
    let x := queueOf c q
    setQueue q (if x.stale then { x with asked := false, stale := false } else { x with came := some res }) c
  | .completion q => setQueue q { queueOf c q with fin := (queueOf c q).fin.modifyHead (fun r => { r with recSt := 4 }) } c
  | .acien => { c with prt := { c.prt with acien := c.prt.acien.map (fun j => { j with res := some res }) } }

/-- Take an access out of the list. -/
def dropOp (o : LineOp) (c : Ctl) : Ctl := { c with port := { c.port with ops := c.port.ops.filter (fun x => decide (x ≠ o)) } }

/-- The path qualifier of sources 0x01 and 0x02: 0 near, 1 spread, 2 far-near, 3 zero line. -/
def pathQual (c : Ctl) (o : LineOp) (port : Option Port) (zero : Bool) : Nat :=
  if zero then 3
  else match port.bind portCore with
    | none => 1
    | some z => match kindOf c z o.ta with
      | some .near => 0
      | some .far => 2
      | _ => 1

/-- The token of path qualifier `q` is 0 near, 1 spread or far-near, 3 zero line. -/
def qualToken (q : Nat) : Nat := if q = 2 then 1 else q

/-- The port of the request that owns an access. -/
def ownerPort (c : Ctl) (o : LineOp) : Option Port :=
  match o.owner with
  | .req id _ => (c.port.reqs.find? (fun r => decide (r.id = id))).map Req.port
  | .wc _ ms => (ms.head?.bind (fun m => c.port.reqs.find? (fun r => decide (r.id = m.1)))).map Req.port
  | _ => none

/-- The running command of queue `q` moves lines between tensor memory and a stack, a link or the host (R541). -/
def saCommand (c : Ctl) (q : Nat) : Bool :=
  match (queueOf c q).run with
  | some r => decide (r.op = 10) || r.srcSa || r.dstSa
  | none => false

/-- The token of a line access: the class of its path, or of a zero line. A line that a command moves between tensor memory and a stack, a
link or the host has the stack class; its list lines, and every other line without a requesting core, have the spread class (R35, R269,
R541). -/
def opToken (c : Ctl) (o : LineOp) (zero : Bool) : Nat :=
  if zero then 3
  else match o.owner with
  | .mover q key => if saCommand c q && decide (key % 4 = 0) then 2 else 1
  | .land _ => 2
  | .record _ => 1
  | .completion _ => 1
  | .acien => 1
  | _ => qualToken (pathQual c o (ownerPort c o) false)

/-- The class of a line that an access reads or writes beside its own, an old line or a side line: the same path for a request's; what an engine
reads or writes beside the lines that it moves has the spread class (R35, R541). -/
def besideToken (c : Ctl) (o : LineOp) : Nat := match o.owner with | .req _ _ => opToken c o false | .wc _ _ => opToken c o false | _ => 1

/-- Count a line read or written beside the line of access `o`. -/
def countSide (o : LineOp) (l : Loc) (w zero : Bool) (c : Ctl) : Ctl := countBeside (besideToken c o) l w zero c

/-- Count a served line: lines read or written, zero lines, and Lovage's token (R35, R269, R541). -/
def countLine (o : LineOp) (l : Loc) (zero : Bool) (c : Ctl) : Ctl :=
  let w := o.acc.isWrite
  let p := ownerPort c o
  let q := pathQual c o p zero
  let c1 := if zero then countZero l w c else c
  let c2 := token (opToken c o zero) 1 c1
  if p.isSome then emit ⟨if w then 0x02 else 0x01, 1, q, some l.zone, p.map portIndex, none⟩ c2 else c2

/-- One folded element (R285..R287). -/
def foldElem (op : FoldOp) (w d x : Exact) : Exact :=
  match op with
  | .add => d.add x
  | .scaledAdd => d.add (w.mul x)
  | .max => d.max x

/-- A fold of a whole line (R285..R290): elements without a source keep their bits. -/
def foldLine (op : FoldOp) (weight : Nat) (stoch : Bool) (lfsr : Nat) (dstFp32 srcFp32 : Bool) (src : List (Option Nat)) (d : Line) : Line :=
  let t := viewElem dstFp32
  let n := leNat d
  let draws := if stoch then lfsrValues (viewLen dstFp32) lfsr else []
  leBytes 64 (packCodes t.width ((List.range (viewLen dstFp32)).map (fun j =>
    match src.getD j none with
    | none => fieldAt n t.width j
    | some x => (t.encode (rndAt draws j) .infinity
        (foldElem op (fp32.decode weight) (t.decode (fieldAt n t.width j)) ((viewElem srcFp32).decode x))).code)))

def FoldOp.qual (o : FoldOp) : Nat :=
  match o with
  | .add => 0
  | .scaledAdd => 1
  | .max => 2

/-- Finish an access with a result; what it read or stored has restarted the idle timer of its bank, but a zero line that it only read
(R264, R416). -/
def finishOp (o : LineOp) (l : Loc) (res : LineRes) (zero : Bool) (s : State) : State :=
  s.onCtl (fun c => recordRes o res (countLine o l zero (dropOp o c)))

/-- Finish a write: at once, or as a guarded write that waits for its parity (R379). -/
def finishWrite (o : LineOp) (l : Loc) (old : LineRes) (new : Line) (poison : Bool) (res : LineRes) (s : State) : State :=
  let zero := !poison && allZero new
  if isGuarded s.ctl o.ta then
    let n := if poison then zeroLine else new
    let j : ParityJob :=
      { op := o, parityTa := parityTa o.ta, diff := xorLine (countedAs old) n, new := n, poison := poison, res := res, old := old }
    s.onCtl (fun c =>
      let c1 := countLine o l zero (touchBank l (dropOp o c))
      { c1 with port := { c1.port with parity := c1.port.parity ++ [j] } })
  else finishOp o l res zero (storeLine l new poison s)

/-- Serve a read of a line (R105, R119); undefined data carries a free p_rs_zero (log 118). -/
def serveRead (o : LineOp) (l : Loc) (up : Upset) (s : State) : State :=
  let (s1, r) := readLine o.ta l up s
  if o.undef then
    let (n, c) := freshFree s1.ctl
    finishOp o l (resData (freeLine n) (Config.freeBit n)) false { s1 with ctl := c }
  else finishOp o l r r.zero s1

/-- Serve a line of a ZMAP (R272, R273), a parity line as `startZmap` does (log 138); each costs Lovage a tag access, an exception too (log
103). A line of a lost group counts as one until that line is stored or poisoned again (DESIGN CHOICE, log 149). -/
def serveTag (o : LineOp) (l : Loc) (s : State) : State :=
  let k := keyOf s.ctl l
  let res : LineRes :=
    if isParity s.ctl o.ta then { resData zeroLine false with exc := true }
    else if s.store.isLost k then { resSt .poison with exc := true }
    else resData zeroLine (s.store.isZero k)
  s.onCtl (fun c => recordRes o res (dropOp o (emit (evZ (if res.exc then 0x2D else 0x2C) l.zone) (token 3 1 c))))

/-- Serve a write of a line (R95, R96, R100, R263). -/
def serveWrite (o : LineOp) (l : Loc) (d : Line) (mask : Nat) (poison : Bool) (up : Upset) (s : State) : State :=
  if mask = fullMask && !isGuarded s.ctl o.ta then finishWrite o l (resSt .ok) d poison (resSt .ok) s
  else
    let (s0, old) := readLine o.ta l up s
    let s1 := s0.onCtl (countSide o l false old.zero)
    if old.st = .poison && mask ≠ fullMask then finishOp o l (resSt .poison) false s1
    else finishWrite o l old (maskLine mask d old.data) poison { resSt .ok with cause := old.cause } s1

/-- The side entry of the unit of access `o`, `none` when its side line reads POISON; the side line is a line access of the same path
(R35). -/
def readSide (o : LineOp) (side lo n : Nat) (s : State) : State × Option (List Byte) × Option Cause :=
  match place s.ctl side with
  | none => (s, none, none)
  | some l =>
    if redirectBad s.ctl l then (s, none, none) else
    let (s0, r) := readLine side l [] s
    let s1 := s0.onCtl (countSide o l false r.zero)
    (s1, if r.st = .ok then some ((List.range n).map (fun i => r.data.getD (lo + i) 0)) else none, r.cause)

/-- Answer a read of a format unit whose payload line has read as `r` (R231, R242): the side entry is not read where the payload's zero bit is
set, whatever its side line holds (log 123); a malformed group counts in the zone of the slice that reads it (R230, R261, log 100). -/
def unitAnswer (o : LineOp) (l : Loc) (side lo n : Nat) (r : LineRes) (s : State) : State :=
  if r.st ≠ .ok ∨ r.zero then finishOp o l r r.zero s
  else
    let (s2, e, cause) := readSide o side lo n s
    match e with
    | some bs =>
      let bad := malformedCount (geo (fmtOf s2.ctl o.ta)) bs
      finishOp o l { r with side := bs, cause := lowCause r.cause cause } false
        (s2.onCtl (emit { evZ 0x25 l.zone with w := bad }))
    | none => finishOp o l (resSt .poison) false s2

/-- Serve a read of a format unit (R119, R231, R242). -/
def serveUnitRead (o : LineOp) (l : Loc) (side lo n : Nat) (up : Upset) (s : State) : State :=
  let (s1, r) := readLine o.ta l up s
  if o.undef then
    let (k, c) := freshFree s1.ctl
    finishOp o l { resData (freeLine k) (Config.freeBit k) with side := (freeLine k).take n } false { s1 with ctl := c }
  else unitAnswer o l side lo n r s1

/-- A read that met a guarded write gets the line as it was before that write (R118). -/
def serveOld (o : LineOp) (l : Loc) (old : LineRes) (s : State) : State :=
  match o.acc with
  | .unitRead side lo n => unitAnswer o l side lo n old s
  | _ => finishOp o l old old.zero s

/-- The read-modify-write of a side entry for access `o` (R231, R247); the status it gives the write. A side line that reads POISON stays as
it is, and gives the write POISON though its payload line is written (log 122). Bytes of the line that no entry uses stay as a stored-view write
left them: R226 has Fennel write them as zero, R231 has the write change only its entry (DESIGN CHOICE, log 148). -/
def writeSide (o : LineOp) (side lo : Nat) (entry : List Byte) (s : State) : State × Status :=
  match place s.ctl side with
  | none => (s, .ok)
  | some l =>
    if redirectBad s.ctl l then (s, .poison) else
    let (s0, old) := readLine side l [] s
    let s1 := s0.onCtl (countSide o l false old.zero)
    if old.st = .poison then (s1, .poison)
    else
      let new := (List.range 64).map (fun i => if lo ≤ i ∧ i < lo + entry.length then entry.getD (i - lo) 0 else old.data.getD i 0)
      ((writeLine side l old new false s1).onCtl (countSide o l true (allZero new)), .ok)

/-- Serve a pack write of a format unit (R231, R247, R248). -/
def serveUnitWrite (o : LineOp) (l : Loc) (d : Line) (poison : Bool) (side lo : Nat) (entry : List Byte) (up : Upset) (s : State) : State :=
  if isGuarded s.ctl o.ta then
    let (s1, old) := readLine o.ta l up s
    finishWrite o l old d poison { resSt .ok with cause := old.cause } (s1.onCtl (countSide o l false old.zero))
  else
    let (s1, st) := writeSide o side lo (if poison then entry.map (fun _ => 0) else entry) s
    finishWrite o l (resSt .ok) d poison (resSt st) s1

/-- Serve a fold (R286, R290, R291): one read and one write of the destination line, and the fold-unit work (R293), which a fold that only
poisons its destination does not take (log 124). -/
def serveFold (o : LineOp) (l : Loc) (op : FoldOp) (weight : Nat) (stoch : Bool) (lfsr : Nat) (dstFp32 srcFp32 : Bool) (srcSt : Status)
    (src : List (Option Nat)) (up : Upset) (s : State) : State :=
  let (s0, old) := readLine o.ta l up s
  let s1 := s0.onCtl (countSide o l false old.zero)
  let st := worst old.st srcSt
  if st ≠ .ok then finishWrite o l old zeroLine true (resSt st) (s1.onCtl (emit (evZ 0x35 l.zone)))
  else finishWrite o l old (foldLine op weight stoch lfsr dstFp32 srcFp32 src old.data) false (resSt .ok)
    (s1.onCtl (fun c => token 4 1 (emit { evZ 0x33 l.zone with qual := op.qual } c)))

/-- The access, whose line at `l` the upset `up` meets, reads a guarded line that has to be rebuilt (R379, R381), its own or its side line,
and the rebuild cannot be made with this grant: it has not been marked (R150), or it waits for lines of the stripe (R210, R211). -/
def rebuildDue (o : LineOp) (l : Loc) (up : Upset) (s : State) : Bool :=
  let s1 := s.onStore (Store.upset (keyOf s.ctl l) up)
  let ts := rebuildTas s1 o
  !ts.isEmpty && (!o.marked || decide (readsAvail s1 (ts.flatMap (stripeBut s1.ctl)) ≠ .ready))

/-- An access with the mark of the rebuild that it needs (R150). -/
def LineOp.mark (o : LineOp) : LineOp := { o with cause := some .guardRebuild }

/-- A rebuild begins: the access carries its mark (R150, R381) and waits for the stripe's other lines, which the next service of it reads. -/
def startRebuild (o : LineOp) (l : Loc) (up : Upset) (s : State) : State :=
  (s.onStore (Store.upset (keyOf s.ctl l) up)).onCtl (fun c => { c with port := { c.port with ops := replaceOp o o.mark c.port.ops } })

/-- Serve an access, its bank being available or OFF; one that needs a corrupted redirect entry reads POISON or is discarded (R476). -/
def serveOp (o : LineOp) (up : Upset) (s : State) : State :=
  match place s.ctl o.ta with
  | none => s.onCtl (fun c => recordRes o (resSt .absent) (dropOp o c))
  | some l =>
    if redirectBad s.ctl l then s.onCtl (fun c => recordRes o (resSt .poison) (dropOp o c))
    else if opAvail s o = .absent then
      s.onCtl (fun c => recordRes o { resSt .absent with exc := decide (o.acc = .tag) }
        (dropOp o (if o.acc = .tag then emit (evZ 0x2D l.zone) c else c)))
    else if rebuildDue o l up s then startRebuild o l up s
    else
      match o.acc with
      | .read => serveRead o l up s
      | .tag => serveTag o l s
      | .write d mask poison => serveWrite o l d mask poison up s
      | .unitRead side lo n => serveUnitRead o l side lo n up s
      | .unitWrite d poison side lo entry => serveUnitWrite o l d poison side lo entry up s
      | .fold op w stoch lfsr df sf st src => serveFold o l op w stoch lfsr df sf st src up s

/-- The physical slice whose arbiter has background access `a`. -/
def Asked.slice (c : Ctl) (a : Asked) : Option Nat := (place c a.ta).map (fun l => redirect c l.s l.x)

/-- One more grant to another access for every access still waiting at a slice (R111), background accesses among them. The access granted is `o`,
or the background access numbered `back`. -/
def ageOthers (p : Nat) (o : Option LineOp) (back : Option Nat) (c : Ctl) : Ctl :=
  let older (x : Option Asked) : Option Asked := x.map (fun y => if some y.serial = back then y else { y with age := y.age + 1 })
  let here (b : Bool) (x : Option Asked) : Option Asked := if b then older x else x
  { c with
    port := { c.port with ops := c.port.ops.map (fun x => if some x ≠ o ∧ opSlice c x = some p then { x with age := x.age + 1 } else x) }
    prt := { c.prt with
      scrub := c.prt.scrub.map (fun x => (x.1, { x.2 with asked := here (decide (x.1 = p)) x.2.asked }))
      mig := c.prt.mig.map (fun x =>
        (x.1, { x.2 with asked := here (decide (committed c x.2.slice = p)) x.2.asked, put := here (decide (x.2.spare = p)) x.2.put }))
      region := c.prt.region.map (fun x =>
        { x with asked := here (match x.asked with | some a => decide (a.slice c = some p) | none => false) x.asked }) } }

/-- The effective QoS of a background access, at QoS 0 (R111, R389, R402). -/
def Asked.effQos (c : Ctl) (a : Asked) : Nat := if bit (reg c brlCfg) 31 then min 15 (a.age / 256) else 0

/-- Whether a background read of the line at `a.ta`, with the lines `a.extra` of its stripe, can go on: no guarded write holds it between its
read and its write (R16, R379), and no retrain or bank keeps a line (R211, R395, R416). -/
def backAvail (s : State) (a : Asked) : Avail :=
  if s.ctl.port.parity.any (fun j => decide (j.op.ta = a.ta)) then .wait none
  else ((a.ta :: a.extra).filterMap (place s.ctl)).foldl (fun m x => m.and (avail s.ctl x (!s.store.isZero (keyOf s.ctl x)))) .ready

/-- State of reset domain `d` (Table 12-7). -/
def domOf (c : Ctl) (d : Nat) : Dom := tabGet Dom.released c.dev.dom d

def domReleased (c : Ctl) (d : Nat) : Bool := decide (domOf c d = .released)
def domInReset (c : Ctl) (d : Nat) : Bool := decide (domOf c d = .inReset)
def domFenced (c : Ctl) (d : Nat) : Bool := match domOf c d with | .fenced _ => true | _ => false

/-- Acien runs (R465, R467). -/
def acienRuns (c : Ctl) : Bool := decide (c.dev.run = .running ∨ c.dev.run = .starting) && !domInReset c 19

/-- What all sources have taken of the interval's budget, and what they are still to be charged with (R439; log 115). -/
def lovTaken (c : Ctl) : Nat := (c.lov.spent.map Prod.snd).sum + (c.lov.carry.map Prod.snd).sum

/-- Lovage's ballast has room for `n` more scrub reads in this interval: within the ballast that it has taken into its estimate, and so within
the cap (R442, R448). -/
def ballastReads (c : Ctl) (n : Nat) : Bool :=
  decide (c.lov.scrub ≠ 0 ∧ c.lov.extra + n * tokenOf c 6 ≤ 100000 * c.lov.scrub)

/-- The period of a scrub pass in µs (Table 10-5). -/
def scrubPeriod (c : Ctl) : Nat := bits (reg c prtScrubCfg) 0 8 * 3600000000

/-- How many lines of slice `p` lie before the next one of its scrub order. -/
def scrubPos (c : Ctl) (p : Nat) : Nat :=
  let x := scrubOf c p
  if x.on then (bankCount c - x.left.length) * 16384 + x.r else 0

/-- The pass of slice `p` is on, and line `pos` of its order is due: the slice's lines are spread evenly over the period (R388, R389). -/
def scrubDue (c : Ctl) (p pos : Nat) : Bool :=
  !c.prt.scrubDone.contains p
    && decide (c.prt.passStart ≤ c.rtc ∧ pos * scrubPeriod c ≤ (c.rtc - c.prt.passStart) * (bankCount c * 16384))

/-- The scrubber of slice `p` makes an access of `n` lines: the device runs, and the line is due, or Lovage wants its reads as ballast (R388,
R389, R442). -/
def scrubRuns (c : Ctl) (p n : Nat) : Bool := decide (c.dev.run = .running) && (scrubDue c p (scrubPos c p) || ballastReads c n)

/-- Scrub reads beyond the period rate are the ballast that the estimate has counted already: what they spend, the tokens beyond the `tok` of
before, is held against that ballast alone (R438, R442). -/
def ballastSpent (tok : Nat) (c : Ctl) : Ctl := { c with lov := { c.lov with extra := c.lov.extra + (c.lov.tok - tok), tok := tok } }

/-- The copy of zone `z` can go on: the base logic runs, and no table that it needs is lost (R386, R400). -/
def copyRuns (c : Ctl) (z : Nat) : Bool :=
  (migOf c z).active && decide (c.dev.run = .running ∨ c.dev.run = .starting) && !c.prt.badMig.contains z
    && !c.prt.badCommitted.contains (migOf c z).slice

/-- Whether the copy can write its line into bank `b` of the spare (R395, R400). -/
def putReady (c : Ctl) (m : Mig) (b : Nat) : Bool := decide ((bankOf c m.spare b).st = .on) && !retraining c m.spare b

/-- The background accesses that could go on at the arbiter of slice `p`: its scrubber's, the reads of a copy out of it, the writes of a copy
into it, and those of a SCRUB_REGION (R389, R402). -/
def backReady (s : State) (p : Nat) : List Asked :=
  let m := migOf s.ctl (p / 9)
  let scrub := (scrubOf s.ctl p).asked.toList.filter (fun a => scrubRuns s.ctl p (1 + a.extra.length))
  let copies := copyRuns s.ctl (p / 9) && m.built
  let copy := if copies && decide (committed s.ctl m.slice = p) then m.asked.toList else []
  let put := if copies && decide (m.spare = p) && putReady s.ctl m (m.wm / 16384) then m.put.toList else []
  let region := match s.ctl.prt.region with
    | some x => if acienRuns s.ctl then x.asked.toList.filter (fun a => decide (a.slice s.ctl = some p)) else []
    | none => []
  (scrub ++ copy ++ region).filter (fun a => match backAvail s a with | .ready => true | _ => false) ++ put

/-- Background access `a` ranks before one of effective QoS `q` that came as number `serial` (R111). -/
def Asked.before (c : Ctl) (a : Asked) (q serial : Nat) : Bool :=
  decide (q < a.effQos c) || (decide (a.effQos c = q) && decide (a.serial < serial))

/-- The arbiter of slice `p` grants background access `a`: it ranks before the access that it would grant, and before the other background
accesses that could go on (R111, R389, R402). -/
def backgroundFirst (s : State) (p : Nat) (a : Asked) : Bool :=
  (match (pickAt s p).1 with | some o => a.before s.ctl (effQos s.ctl o) o.came | none => true)
    && (backReady s p).all (fun b => decide (b.serial = a.serial) || a.before s.ctl (b.effQos s.ctl) b.serial)

/-- A background access at slice `p` ranks before access `o`, and takes the grant (R111, R389, R402). -/
def yields (s : State) (p : Nat) (o : LineOp) : Bool := (backReady s p).any (fun a => a.before s.ctl (effQos s.ctl o) o.came)

end Sys2Proof.Machine
end

