-- ==== Sys2Proof/Machine/Ports.lean ====
section
/-! DEFINITION. Requests of the target data ports: acceptance, refusal, fixed-lag placement, the lines and units a request covers, and
the beats that answer it (R79..R116, R141, R142, R170, R234..R248, R254, R270..R272). -/

namespace Sys2Proof.Machine

/-- Lines per beat (Table 3-1); HP has half a line, given as 0. -/
def lpb (p : Port) : Nat :=
  match p with
  | .ma _ => 16
  | .mb _ => 16
  | .mc _ => 8
  | .vx _ => 8
  | .cd _ => 2
  | .hp => 0

/-- Beats of `len` lines (R92). -/
def beatsOf (p : Port) (len : Nat) : Nat := if lpb p = 0 then 2 * len else ceilDiv len (lpb p)

/-- Ports of the privileged class (R82). -/
def privPort (p : Port) : Bool :=
  match p with
  | .ma _ => true
  | .mb _ => true
  | .mc _ => true
  | _ => false

/-- A port with a write channel (R88, R101). -/
def writePort (p : Port) : Bool :=
  match p with
  | .ma _ => false
  | .mb _ => false
  | _ => true

/-- Schedule group of a core port (R161). -/
def groupOf (c : Ctl) (p : Port) : Option Nat :=
  match p with
  | .ma n => some (bits (reg c (thyGmap n)) 0 2)
  | .mb n => some (bits (reg c (thyGmap n)) 2 2)
  | .mc n => some (bits (reg c (thyGmap n)) 4 2)
  | .vx n => some (bits (reg c (thyGmap n)) 6 2)
  | .cd n => some (bits (reg c (thyGmap n)) 8 2)
  | .hp => none

/-- Profile of group `g` (R160): 0 Steady, 1 Sprint, 2 Lean. -/
def profileOf (c : Ctl) (g : Nat) : Nat := bits (reg c thyProf) (2 * g) 2

/-- The port runs fixed-lag (R81). -/
def fixedLag (c : Ctl) (p : Port) : Bool :=
  match groupOf c p with
  | none => false
  | some g =>
    decide (profileOf c g ≠ 1) && (match p with
      | .vx n => bit (reg c (thyGmap n)) 10
      | .cd _ => false
      | _ => true)

/-- A schedule group's state. -/
def grpOf (c : Ctl) (g : Nat) : Grp := tabGet Grp.rest c.grp g
def setGrp (g : Nat) (v : Grp) (c : Ctl) : Ctl := { c with grp := tabPut Grp.rest g v c.grp }

/-- The device serves its ports: the load is complete, it is not entering or leaving SLEEP, and its outputs are not latched (R87, R425,
R433). -/
def deviceOpen (c : Ctl) : Bool :=
  decide (c.dev.run = .running) && c.pwr.entry.isNone && !bit (reg c pwrSt) 31

/-- Every domain is fenced: a requested device reset drains, or the device is in a fatal condition (R472, R476). -/
def devFenced (c : Ctl) : Bool := c.dev.resetReq.isSome || c.out.fatal

/-- Zone `z` is fenced (R468). -/
def zoneFenced (c : Ctl) (z : Nat) : Bool := domFenced c z || devFenced c

/-- Zone `z` is clamped (R473). -/
def isolated (c : Ctl) (z : Nat) : Bool := bit (reg c brlIsol) z

/-- A port is open (R85, R87, R473): a fenced port stays open; a zone just released waits for c_rst_ack to fall. -/
def portOpen (c : Ctl) (p : Port) : Bool :=
  deviceOpen c && (match portCore p with
    | none => true
    | some z => !isolated c z && !domInReset c z && (zoneFenced c z || !c.pin.rstAck.contains z))

/-- New requests of the port complete with FENCED (R115); a requested device reset fences every domain (R472). -/
def portFenced (c : Ctl) (p : Port) : Bool :=
  match portCore p with
  | none => devFenced c
  | some z => zoneFenced c z

/-- Lovage's source of a port's traffic (R37, R153): 0..3 stand for the groups, 4 for the device profile. -/
def lovSource (c : Ctl) (p : Port) : Nat := (groupOf c p).getD 4

/-- Source `i` may take no more work of energy `k` in this interval: its share, less what the last interval left for it to pay (log 115), or
the budget of all traffic up to its row, would be passed (R439). A source that has been held for two whole intervals in a row takes one piece
of work (R480). Before the first interval nothing is held. -/
def lovFull (c : Ctl) (i k : Nat) : Bool :=
  let spent := tabGet 0 c.lov.spent i
  !(decide (2 ≤ tabGet 0 c.lov.waits i ∧ spent = 0)) &&
    ((match tabFind c.lov.share i with | some x => decide (x < spent + tabGet 0 c.lov.carry i + k) | none => false)
      || (match tabFind c.lov.room i with
        | some x => decide (x < lovTaken c + k)
        | none => false))

/-- Lovage turns away work of source `i` in this interval (R439, R455). -/
def lovTurnedAway (i : Nat) (c : Ctl) : Ctl := { c with lov := { c.lov with short := insertNew i c.lov.short } }

/-- Work of energy `k` of source `i` is admitted (R439). -/
def lovSpend (i k : Nat) (c : Ctl) : Ctl := { c with lov := { c.lov with spent := tabMod 0 i (fun x => x + k) c.lov.spent } }

/-- Lovage holds schedule group `g`: its share is spent (R37, R439). A group without demand is not held. -/
def lovHoldsGroup (c : Ctl) (g : Nat) : Bool :=
  lovFull c g 1 && (decide (0 < tabGet 0 c.lov.spent g) || (match tabFind c.lov.share g with | some x => decide (0 < x) | none => false)
    || c.lov.held.contains g)

/-- Lovage withholds acceptance on an elastic port (R37, R153). -/
def withheld (c : Ctl) (p : Port) : Bool := lovFull c (lovSource c p) 1

/-- A write of the port waits for a range (R86, R179). -/
def waitsRange (c : Ctl) (p : Port) : Bool := c.port.reqs.any (fun r => decide (r.port = p ∧ r.range = .waiting))

/-- The port takes a request but for what Lovage withholds (R85, R86). -/
def rqOpen (c : Ctl) (p : Port) : Bool :=
  portOpen c p &&
    (if fixedLag c p then match groupOf c p with | some g => !(grpOf c g).active | none => true
    else decide ((c.port.reqs.filter (fun r => decide (r.port = p) && !r.released)).length < 32) && !waitsRange c p)

/-- p_rq_rdy (R85, R86): Lovage withholds it on an elastic port alone (R37). -/
def rqReady (c : Ctl) (p : Port) : Bool := rqOpen c p && (fixedLag c p || !withheld c p)

/-- Lines of a request (R91). -/
def Req.len (r : Req) : Nat := r.f.len + 1

/-- The request is answered on p_rs: a READ, a ZMAP, a reserved op, or a WRITE on a port without a write channel (R88). -/
def Req.onRs (r : Req) : Bool := decide (r.op ≠ .write) || r.f.opRsvd || !writePort r.port

/-- The request is a ZMAP; a reserved op is none, whatever row carried it (R88). -/
def Req.isZmap (r : Req) : Bool := decide (r.op = .zmap) && !r.f.opRsvd

/-- Response beats of a request answered on p_rs (R88, R102): one for a ZMAP. -/
def Req.beats (r : Req) : Nat := if r.isZmap then 1 else beatsOf r.port r.len

/-- Write data beats that a request takes. -/
def Req.dataBeats (r : Req) : Nat := if r.onRs then 0 else beatsOf r.port r.len

/-- The region table as a request of acceptance number `id` meets it: the attributes of a change that arrived before the request (R73, R213). -/
def seenBy (c : Ctl) (id : Nat) : Ctl :=
  match c.region with
  | some ch => if ch.serial ≤ id then setReg (rgnEnt ch.n) ch.val c else c
  | none => c

/-- The geometry of the region that holds p_rq_addr. -/
def reqGeo (c : Ctl) (remap : Bool) (f : RqFields) : Geo := geo (fmtOf c (canonTa remap f.addr))

/-- A whole-request refusal under R88, R89, R91, R94, R237 or R238. -/
def refusedWhole (c : Ctl) (p : Port) (op : RqOp) (f : RqFields) (remap : Bool) : Bool :=
  f.opRsvd || decide (f.addr % 64 ≠ 0) ||
    (match op with
    | .zmap => false
    | .read => decide (1 < f.view) || (decide (f.view = 1) && !fennelOn c) || (f.emen && decide (lpb p < f.len + 1))
    | .write =>
      !writePort p || decide (f.view = 1 ∨ 2 < f.view) || (decide (f.view = 2) && !fennelOn c)
        || (f.emen && decide (lpb p < f.len + 1))
        || (decide (f.view = 2) &&
          (let g := reqGeo c remap f
           decide ((f.len + 1) * viewLen f.vty % g.e ≠ 0) || (f.emen && decide (g.fam ≠ .dense)))))

/-- The stored lines a request asks for, as presented: its lines, or the payload lines its view draws on (R170, R234). -/
def reqTas (c : Ctl) (r : Req) : List Nat :=
  if r.op = .zmap ∨ r.f.view = 0 then (List.range r.len).map (fun i => r.f.addr + 64 * i)
  else (List.range (unitCount (reqGeo (seenBy c r.id) r.remap r.f) r.f.vty r.len)).map (fun i => r.f.addr + 64 * i)

/-- Interval of granules (R170). -/
abbrev Span := Nat × Nat

def Span.meets (a b : Span) : Bool := decide (a.1 ≤ b.2 ∧ b.1 ≤ a.2)

/-- The granules of one canonical line; a stored-view access to a side line covers its region (R254). -/
def lineSpan (c : Ctl) (stored : Bool) (ta : Nat) : Span :=
  match regionOf ta with
  | some n => if stored && isSideLine c ta then (regionBase n / 256, regionBase n / 256 + 8191) else (ta / 256, ta / 256)
  | none => (ta / 256, ta / 256)

/-- A stored-view request for R254; a ZMAP covers only the lines whose zero bits it reads (R170). -/
def Req.stored (r : Req) : Bool := decide (r.op ≠ .zmap ∧ r.f.view = 0)

/-- The granules a request covers (R170, R178, R254): one span from first to last for a WRITE. -/
def reqCover (c : Ctl) (r : Req) : List Span :=
  let spans := (reqTas c r).map (fun t => lineSpan (seenBy c r.id) r.stored (canonTa r.remap t))
  match r.op, spans with
  | .write, a :: rest => [rest.foldl (fun m x => (min m.1 x.1, max m.2 x.2)) a]
  | _, _ => spans

def overlap (a b : List Span) : Bool := a.any (fun x => b.any (fun y => x.meets y))

/-- Lag of a kind in pc (R159). -/
def lagOf (c : Ctl) (g : Nat) (k : Kind) : Nat :=
  match k with
  | .near => bits (reg c (thyLag g)) 0 10
  | .spread => bits (reg c (thyLag g)) 10 10
  | .far => bits (reg c (thyLag g)) 20 10

/-- The target kind of a line of a request: in a ZMAP a parity line has the kind of its address, since it completes with OK (R109, R272). -/
def reqKind (c : Ctl) (z : Nat) (r : Req) (ta : Nat) : Option Kind := if r.isZmap then addrKind c z ta else kindOf c z ta

/-- The lines of a request that can have a target kind: of a view READ, the payload lines of its view lines that are served (R109, R235). -/
def kindTas (c : Ctl) (r : Req) : List Nat :=
  if r.op = .read ∧ r.f.view = 1 then
    ((List.range r.len).flatMap (fun i => match viewOf (seenBy c r.id) r.remap r.f.addr r.f.vty i with | .units us => us | _ => [])).eraseDups
  else reqTas c r

/-- L of R109: the largest lag among the request's target kinds, the near lag where there is none. -/
def reqLag (c : Ctl) (g : Nat) (r : Req) : Nat :=
  match portCore r.port with
  | none => 0
  | some z =>
    let ks := if r.verdict = .serve then (kindTas c r).filterMap (fun t => reqKind (seenBy c r.id) z r (canonTa r.remap t)) else []
    if ks.isEmpty then lagOf c g .near else ks.foldl (fun m k => max m (lagOf c g k)) 0

/-- The ticks reserved on a port (R110). -/
def reserved (c : Ctl) (p : Port) : List Span :=
  c.port.reqs.filterMap (fun r => if r.port = p then r.due.map (fun d => (d, d + r.beats - 1)) else none)

/-- The first run of `b` free ticks from `t` on; `fuel` exceeds the number of reservations (R110). -/
def firstFree (rs : List Span) (b fuel t : Nat) : Nat :=
  match fuel with
  | 0 => t
  | n + 1 =>
    match rs.find? (fun x => Span.meets x (t, t + b - 1)) with
    | none => t
    | some x => firstFree rs b n (x.2 + 1)

/-- Place the delivery of a request on a fixed-lag port (R109, R110, R142). -/
def placeReq (c : Ctl) (r : Req) : Req × Ctl :=
  if fixedLag c r.port && r.onRs then
    match groupOf c r.port with
    | none => (r, c)
    | some g =>
      let want := r.tick + reqLag c g r
      let rs := reserved c r.port
      let d := firstFree rs r.beats (rs.length + 1) want
      let c1 := if d ≠ want then emit ⟨0x06, 1, 0, portCore r.port, some (portIndex r.port), some g⟩ c else c
      let c2 := if r.tick + 4095 < d + r.beats - 1 then
          raiseInt 19 (setGrp g { grpOf c1 g with horizon := (grpOf c1 g).horizon ++ [(portIndex r.port, c.pc)] } c1)
        else c1
      ({ r with due := some d }, c2)
  else (r, c)

/-- Number of input elements of a request. -/
def elemCount (r : Req) : Nat := r.len * viewLen r.f.vty

/-- Stochastic pack writes draw (R252); a request refused whole or FENCED draws nothing (log 16). -/
def drawsPort (r : Req) : Bool := decide (r.op = .write ∧ r.f.view = 2 ∧ r.f.rnd = true ∧ r.verdict = .serve)

/-- An HP request needs no stamp: it is registered as it is accepted, and draws in acceptance order (R97, R252). -/
def acceptHp (c : Ctl) (r : Req) : Req × Ctl :=
  if r.port = .hp then
    if drawsPort r then
      ({ r with reg := some r.id, lfsr := c.lfsrHp }, { c with lfsrHp := lfsrAfter (elemCount r) c.lfsrHp })
    else ({ r with reg := some r.id }, c)
  else (r, c)

/-- The new request at its acceptance edge (R84, R115, R116). -/
def newReq (c : Ctl) (p : Port) (op : RqOp) (f : RqFields) : Req :=
  let remap := remapNow c
  { id := c.port.serial
    port := p
    op := op
    f := f
    remap := remap
    verdict := if portFenced c p then .fenced else if refusedWhole (seenBy c c.port.serial) p op f remap then .unsupported else .serve
    tick := match groupOf c p with | some g => (grpOf c g).tick | none => 0
    pc := c.pc
    beatsIn := 0
    wdata := []
    reg := none
    range := .none
    released := false
    nOps := 0
    res := []
    due := none
    out := 0
    answered := false
    lfsr := 0
    discard := false
    cause := none }

/-- Zone whose codec serves the request (R256). -/
def codecZone (r : Req) : Nat := (portCore r.port).getD 0

/-- View lines that R237 (qualifier 1) or R238 (qualifier 2) refuse are counted (R261). -/
def countRefusedViews (r : Req) (c : Ctl) : Ctl :=
  if r.op = .write ∧ r.f.view = 2 ∧ r.verdict = .unsupported ∧ writePort r.port = true ∧ r.f.opRsvd = false ∧ fennelOn c = true then
    let g := reqGeo (seenBy c r.id) r.remap r.f
    if (r.f.len + 1) * viewLen r.f.vty % g.e ≠ 0 then emit { evZ 0x26 (codecZone r) with w := r.f.len + 1, qual := 1 } c
    else if r.f.emen = true ∧ g.fam ≠ .dense then emit { evZ 0x26 (codecZone r) with w := r.f.len + 1, qual := 2 } c
    else c
  else c

/-- Element mask of line position `i` of a request, 32 bits; all ones without a mask (R94). -/
def lineMask (r : Req) (i : Nat) : Nat :=
  if r.f.emen && r.op ≠ .zmap then r.f.emask.getD (if lpb r.port = 0 then 0 else i % lpb r.port) 0 % 2 ^ 32 else 2 ^ 32 - 1

/-- Byte mask of an element mask. -/
def byteMask (m : Nat) : Nat := (List.range 32).foldl (fun a e => if m.testBit e then a + 3 * 4 ^ e else a) 0

/-- The status a stored line has from its address alone (R44, R45, R47, R71); none when its slice decides. -/
def addrStatus (c : Ctl) (write : Bool) (ta : Nat) : Option Status :=
  match windowOf c ta with
  | .regs => some .unsupported
  | .none => some .absent
  | .boot => if write then some .unsupported else none
  | _ => if isParity c ta then some .unsupported else none

/-- The energy of access `acc` to the line at `ta` by Table 11-6: its own line in class `own`; an old line, a side line and a folded line
beside it in class `beside`; and the parity update of every line that it writes in a guarded region (R35, R293, R379, R438). -/
def accEnergy (c : Ctl) (own beside ta : Nat) (acc : Acc) : Nat :=
  let t := tokenOf c
  let g := isGuarded c ta
  let par := if g then 2 * t 1 else 0
  match acc with
  | .read => t own
  | .tag => t 3
  | .write _ mask _ => t own + (if g || decide (mask ≠ fullMask) then t beside else 0) + par
  | .unitRead .. => t own + t beside
  | .unitWrite .. => t own + (if g then t beside else 0) + par + 2 * t beside + par
  | .fold .. => t own + t beside + par + t 4

/-- What the slice of stored line `i` of a request, at canonical `ta`, is asked for. -/
def reqAcc (c : Ctl) (r : Req) (i ta : Nat) : Acc :=
  match r.op with
  | .zmap => .tag
  | .read =>
    if r.f.view = 0 then .read else match sideOf c ta with | some (s, lo, n) => .unitRead s lo n | none => .read
  | .write =>
    if r.f.view = 0 then .write [] (byteMask (lineMask r i)) false
    else match sideOf c ta with | some (s, lo, _) => .unitWrite [] false s lo [] | none => .write [] (if r.f.emen then 1 else fullMask) false

/-- The energy class of a request's line at `ta`: near or spread; none where the line completes from its address alone (R35, R541). -/
def reqClass (c : Ctl) (r : Req) (ta : Nat) : Option Nat :=
  match portCore r.port with
  | some z => (reqKind c z r ta).map (fun k => if k = .near then 0 else 1)
  | none => if (addrStatus c (decide (r.op = .write)) ta).isNone then some 1 else none

/-- The energy of a request by Table 11-6: its accesses on their paths, and the view lines that Fennel converts (R439); a line whose elements are
all masked has none (R269). -/
def reqEnergy (c : Ctl) (r : Req) : Nat :=
  if r.verdict ≠ .serve then 0
  else
    let line (x : Nat × Nat) : Nat :=
      let ta := canonTa r.remap x.1
      match if r.f.view = 0 ∧ lineMask r x.2 = 0 then none else reqClass c r ta with
      | some k => accEnergy c k k ta (reqAcc c r x.2 ta)
      | none => 0
    ((reqTas c r).zipIdx.map line).sum + (if r.op ≠ .zmap ∧ r.f.view ≠ 0 then r.len * tokenOf c 5 else 0)

/-- The request at an elastic port fits what Lovage admits in this interval (R37, R439); a fixed-lag port takes what comes at a tick that its
group carries (R85), and pays for it in the next interval (log 115). -/
def lovAdmits (c : Ctl) (p : Port) (op : RqOp) (f : RqFields) : Bool :=
  fixedLag c p || !lovFull c (lovSource c p) (reqEnergy (seenBy c c.port.serial) (newReq c p op f))

/-- Accept a request (R84, R116, R439): it joins its port ring. Every whole-request refusal is counted under source 0x04, that of a misaligned
ZMAP (R270) among them, which R116 does not name (DESIGN CHOICE, log 134). -/
def acceptReq (p : Port) (op : RqOp) (f : RqFields) (c : Ctl) : Ctl :=
  let r := newReq c p op f
  let c0 := { c with port := { c.port with serial := c.port.serial + 1 } }
  let c1 := emit (evPort 0x00 p) (if r.verdict = .unsupported then emit (evPort 0x04 p) c0 else c0)
  let (r1, c2) := acceptHp (countRefusedViews r c1) r
  let (r2, c3) := placeReq c2 r1
  lovSpend (lovSource c p) (reqEnergy (seenBy c r.id) r) { c3 with port := { c3.port with reqs := c3.port.reqs ++ [r2] } }

/-- Delivered data of a masked READ: masked elements zero (R95). -/
def maskData (m : Nat) (d : Line) : Line := maskLine (byteMask m) d zeroLine

/-- View line `i`, element `k` falls on unit `u`, and one of its bytes is not masked (R243). -/
def unitNeeded (r : Req) (g : Geo) (u : Nat) : Bool :=
  let v := viewLen r.f.vty
  (List.range r.len).any (fun i => (List.range v).any (fun k =>
    decide ((i * v + k) / g.e = u) &&
      (if r.f.vty then (lineMask r i).testBit (2 * k) || (lineMask r i).testBit (2 * k + 1) else (lineMask r i).testBit k)))

/-- The result of line `i` of a stored-view READ or a ZMAP that has it from its address alone: such a line is ready when it is accepted
(R143). -/
def addrRes (c : Ctl) (r : Req) (i : Nat) : Option LineRes :=
  let ta := canonTa r.remap (r.f.addr + 64 * i)
  if r.op = .zmap then
    match windowOf c ta with
    | .regs => some { resSt .unsupported with exc := true }
    | .none => some { resSt .absent with exc := true }
    | _ => none
  else (addrStatus c false ta).map (fun st => if lineMask r i = 0 then resData zeroLine false else resSt st)

/-- Result `i` of a stored-view READ or a ZMAP. -/
def lineRes (c : Ctl) (r : Req) (i : Nat) : LineRes :=
  match tabFind r.res i with
  | some x => x
  | none => (addrRes c r i).getD (resData zeroLine false)

/-- Lines answered for view line `i` of a READ from its unit results (R239, R241, R242); a payload line that is not fetched counts as one whose
zero bit is clear (log 101). -/
def viewLine (c : Ctl) (r : Req) (i : Nat) : LineRes :=
  if lineMask r i = 0 then resData zeroLine false
  else
    match viewOf c r.remap r.f.addr r.f.vty i with
    | .unsupported => resSt .unsupported
    | .absent => resSt .absent
    | .units us =>
      let g := reqGeo c r.remap r.f
      let rs := us.map (fun u => tabGet (resData zeroLine false) r.res ((u - r.f.addr) / 64))
      let st := rs.foldl (fun a x => worst a x.st) .ok
      if st ≠ .ok then { resSt st with busy := rs.any LineRes.busy }
      else
        let vals := (rs.map (fun x => expandUnit g x.data x.side x.zero)).flatten
        let v := viewLen r.f.vty
        let first := i * v - i * v / g.e * g.e
        let bytes := (((vals.drop first).take v).map (viewBytes r.f.vty)).flatten
        { resData (maskData (lineMask r i) bytes) (rs.all LineRes.zero) with busy := rs.any LineRes.busy }

/-- The result indices that line `i` of a READ needs. -/
def lineNeeds (c : Ctl) (r : Req) (i : Nat) : List Nat :=
  if r.f.view = 0 then [i]
  else
    match viewOf c r.remap r.f.addr r.f.vty i with
    | .units us => if lineMask r i = 0 then [] else
        (us.map (fun u => (u - r.f.addr) / 64)).filter (unitNeeded r (reqGeo c r.remap r.f))
    | _ => []

/-- Line `i` of a READ as delivered (R95, R103, Table 3-5). -/
def readLineOut (c : Ctl) (r : Req) (i : Nat) : LineRes :=
  match r.verdict with
  | .unsupported => resSt .unsupported
  | .fenced => resSt .fenced
  | .serve =>
    if r.f.view = 0 then
      let x := lineRes c r i
      if x.st = .ok then { x with data := maskData (lineMask r i) x.data } else { resSt x.st with busy := x.busy }
    else viewLine c r i

/-- Lines of beat `k` of a READ: those of R92; positions beyond the last line carry nothing (R93). -/
def beatLines (r : Req) (k : Nat) : List Nat :=
  if lpb r.port = 0 then [k / 2] else ((List.range (lpb r.port)).map (fun j => k * lpb r.port + j)).filter (fun i => decide (i < r.len))

/-- Bits as bytes, bit i in bit i mod 8 of byte i div 8. -/
def bitmapBytes (n : Nat) (f : Nat → Bool) : List Byte :=
  leBytes n ((List.range (8 * n)).foldl (fun a i => if f i then a + 2 ^ i else a) 0)

/-- Positions of a response beat that carry no line: zero data, poison and zero bits 0 (R93). -/
def padBeat (p : Port) (ls : List LineRes) : List LineRes := ls ++ List.replicate (max 1 (lpb p) - ls.length) (resData zeroLine false)

/-- The one beat of a ZMAP (R271, R272). -/
def zmapBeat (c : Ctl) (r : Req) : Edge :=
  let x (i : Nat) : LineRes := match r.verdict with
    | .unsupported => resSt .unsupported
    | .fenced => resSt .fenced
    | .serve => lineRes c r i
  let st := (List.range r.len).foldl (fun a i => worst a (x i).st) .ok
  let z := bitmapBytes 32 (fun i => decide (i < r.len) && (x i).zero && (x i).st = .ok && !(x i).exc)
  let e := bitmapBytes 32 (fun i => decide (i < r.len) && (x i).exc)
  let d := if r.verdict ≠ .serve then zeroLine.take (if lpb r.port = 0 then 32 else 64) else if lpb r.port = 0 then z else z ++ e
  .rs (portIndex r.port) r.f.tag 0 true st (padBeat r.port [resData d false])
    ((List.range r.len).any (fun i => (x i).busy))

/-- Response beat `k` (R92, R102, R103, R120), of lines with the attributes that the request meets (R213); on HP half a line. -/
def beatEdge (c : Ctl) (r : Req) (k : Nat) : Edge :=
  if r.isZmap then zmapBeat (seenBy c r.id) r
  else
    let ls := (beatLines r k).map (readLineOut (seenBy c r.id) r)
    let ls' := if lpb r.port = 0 then ls.map (fun x => { x with data := (x.data.drop (32 * (k % 2))).take 32 }) else ls
    .rs (portIndex r.port) r.f.tag k (decide (k + 1 = r.beats)) (ls.foldl (fun a x => worst a x.st) .ok) (padBeat r.port ls')
      (ls.any LineRes.busy && privPort r.port)

/-- Line `i` of a READ or a ZMAP lies in the port ring, or has its result from its address alone (R143, R175). -/
def lineReady (c : Ctl) (r : Req) (i : Nat) : Bool :=
  if r.op = .zmap ∨ r.f.view = 0 then (addrRes c r i).isSome || (r.released && (tabFind r.res i).isSome)
  else
    match viewOf c r.remap r.f.addr r.f.vty i with
    | .units _ => r.released && (lineNeeds c r i).all (fun u => (tabFind r.res u).isSome)
    | _ => true

/-- All lines of beat `k` are ready, by the attributes that the request meets (R143, R213). -/
def beatReady (c : Ctl) (r : Req) (k : Nat) : Bool :=
  if r.verdict ≠ .serve then true
  else if r.op = .zmap then (List.range r.len).all (lineReady (seenBy c r.id) r)
  else (beatLines r k).all (lineReady (seenBy c r.id) r)

/-- Every result of a released request is there. -/
def Req.complete (r : Req) : Bool := r.released && decide (r.nOps ≤ r.res.length)

/-- The status of a WRITE (R101): that of its line of highest precedence. -/
def Req.writeStatus (r : Req) : Status :=
  match r.verdict with
  | .unsupported => .unsupported
  | .fenced => .fenced
  | .serve => r.res.foldl (fun a x => worst a x.2.st) .ok

/-- Replace a request. -/
def setReq (r : Req) (c : Ctl) : Ctl :=
  { c with port := { c.port with reqs := c.port.reqs.map (fun x => if x.id = r.id then r else x) } }

def findReq (c : Ctl) (id : Nat) : Option Req := c.port.reqs.find? (fun r => decide (r.id = id))

/-- Every beat and response of the request has been given. -/
def Req.answeredAll (r : Req) : Bool := r.answered || (r.onRs && decide (r.beats ≤ r.out))

/-- Requests that are finished leave: answered, registered, sent toward their slices, and without a range in use. -/
def reap (c : Ctl) : Ctl :=
  { c with port := { c.port with reqs := c.port.reqs.filter (fun r =>
      !(r.answeredAll && r.reg.isSome && (r.released || decide (r.verdict ≠ .serve)) && decide (r.range ≠ .held ∧ r.range ≠ .waiting))) } }

end Sys2Proof.Machine
end

