-- ==== Sys2Proof/Machine/Chervil.lean ====
section
/-! DEFINITION. Chervil: registration by stamp, holds, write ranges, the write-combining buffers, the release of requests from their
port rings, kernel ends and invalidations (R113, R114, R169..R199). -/

namespace Sys2Proof.Machine

def chvOf (c : Ctl) (z : Nat) : Chv := tabGet Chv.rest c.chv z
def setChv (z : Nat) (v : Chv) (c : Ctl) : Ctl := { c with chv := tabPut Chv.rest z v c.chv }

/-- Start a line access (R16): it joins those on their way to their slices. -/
def pushOp (owner : Owner) (ta : Nat) (acc : Acc) (priv : Bool) (qos : Nat) (c : Ctl) : Ctl :=
  { c with port := { c.port with
      serial := c.port.serial + 1
      ops := c.port.ops ++ [⟨owner, ta, acc, priv, qos, 0, c.port.serial, none, false, false, false, 0⟩] } }

/-- Flush one WC entry as a one-line write (R182, R183), counted by trigger. -/
def flushEntry (z trigger : Nat) (e : WcEntry) (c : Ctl) : Ctl :=
  let qos := match e.members.head?.bind (fun m => findReq c m.1) with | some r => r.f.qos | none => 0
  let x := chvOf c z
  let c1 := setChv z { x with wc := x.wc.filter (fun y => decide (y.ta ≠ e.ta)) } c
  emit { evZ 0x1B z with qual := trigger } (pushOp (.wc z e.members) e.ta (.write e.data e.mask false) false qos c1)

/-- Flush the entries of core `z` that a test selects. -/
def flushWhere (z trigger : Nat) (f : WcEntry → Bool) (c : Ctl) : Ctl :=
  ((chvOf c z).wc.filter f).foldl (fun c e => flushEntry z trigger e c) c

/-- Flush the oldest entries until fewer than CHV_CFG.wc_high are held (R182). -/
def flushHigh (z : Nat) (c : Ctl) : Ctl :=
  let n := (chvOf c z).wc.length
  let high := bits (reg c chvCfg) 8 7
  if n < high then c else ((chvOf c z).wc.take (n + 1 - high)).foldl (fun c e => flushEntry z 1 e c) c

/-- A write line enters the WC buffer, merging into the entry of its line (R180, R181). -/
def wcEnter (z ta : Nat) (d : Line) (mask : Nat) (m : Nat × Nat) (c : Ctl) : Ctl :=
  let x := chvOf c z
  match x.wc.find? (fun e => decide (e.ta = ta)) with
  | some e =>
    let e' := { e with data := maskLine mask d e.data, mask := e.mask ||| mask, members := e.members ++ [m] }
    setChv z { x with wc := x.wc.map (fun y => if y.ta = ta then e' else y) } c
  | none => flushHigh z (setChv z { x with wc := x.wc ++ [⟨ta, maskLine mask d zeroLine, mask, c.pc, [m]⟩] } c)

/-- The request's lines may enter the WC buffer (R180). -/
def wcPort (r : Req) : Bool :=
  decide (r.op = .write ∧ r.f.view = 0 ∧ r.verdict = .serve) && (match r.port with | .vx _ => true | .cd _ => true | _ => false)

/-- Earlier requests of the core that are not finished and can hold `r` (R174, R178). -/
def earlier (c : Ctl) (r : Req) (n : Nat) : List Req :=
  c.port.reqs.filter (fun x => decide (x.id ≠ r.id) && decide (portCore x.port = portCore r.port) && decide (x.verdict = .serve)
    && (match x.reg with | some m => decide (m < n) | none => false))

/-- Every line of `x` that overlaps `cov` has arrived at the port ring (R175). -/
def linesArrived (c : Ctl) (x : Req) (cov : List Span) : Bool :=
  x.complete || (x.released && (reqTas c x).zipIdx.all (fun (t, i) =>
    !overlap [lineSpan c x.stored (canonTa x.remap t)] cov || (tabFind x.res i).isSome))

/-- Every overlapping line of the earlier write `x` sits in a WC entry (R181), and the request merges into that entry: `tas` are its
lines. -/
def allInWc (c : Ctl) (z : Nat) (x : Req) (cov : List Span) (tas : List Nat) : Bool :=
  x.released && (reqTas c x).all (fun t =>
    let ta := canonTa x.remap t
    !overlap [lineSpan c x.stored ta] cov || (tas.contains ta && (chvOf c z).wc.any (fun e => decide (e.ta = ta))))

/-- The lines of registered request `x` merge into WC entry `e` (R180, R181): it may enter the buffer, holds the entry's line, and is not held
behind a write whose line the entry has, once those writes have `entered` the buffer whole. -/
def mergesInto (c : Ctl) (z : Nat) (entered : Bool) (x : Req) (e : WcEntry) : Bool :=
  let tas := (reqTas c x).map (canonTa x.remap)
  wcPort x && tas.contains e.ta
    && (!entered || e.members.all (fun m => match findReq c m.1 with | some y => allInWc c z y (reqCover c x) tas | none => true))

/-- A WC entry that a registered request overlaps and does not merge into (R182); an entry of a side line covers its region as the write that
made it does (R254). -/
def metEntry (c : Ctl) (z : Nat) (entered : Bool) : Option WcEntry :=
  (chvOf c z).wc.find? (fun e => c.port.reqs.any (fun x => decide (portCore x.port = some z ∧ x.verdict = .serve) && x.reg.isSome && !x.released
    && overlap [lineSpan c true e.ta] (reqCover c x) && !mergesInto c z entered x e))

/-- Such entries are flushed, and with them those into which a request can then merge no more (R181, R182). -/
def flushMets (fuel z : Nat) (entered : Bool) (c : Ctl) : Ctl :=
  match fuel with
  | 0 => c
  | n + 1 =>
    match metEntry c z entered with
    | some e => flushMets n z entered (flushEntry z 2 e c)
    | none => c
def flushMet (z : Nat) (entered : Bool) (c : Ctl) : Ctl := flushMets (chvOf c z).wc.length z entered c
def flushPort (p : Port) (c : Ctl) : Ctl := match portCore p with | some z => flushMet z true c | none => c

/-- The earlier requests behind which Chervil holds registered request `r` (Table 5-1, R174, R179, R181). -/
def holders (c : Ctl) (r : Req) : List Req :=
  match portCore r.port, r.reg with
  | some z, some n =>
    if r.verdict ≠ .serve then []
    else
      let cov := reqCover c r
      let tas := (reqTas c r).map (canonTa r.remap)
      (earlier c r n).filter (fun x =>
        overlap (reqCover c x) cov &&
          (if x.op = .write then
            decide (x.range ≠ .retired) && !(wcPort r && allInWc c z x cov tas)
          else if r.op = .write then !linesArrived c x cov
          else false))
  | _, _ => []

/-- Chervil holds registered request `r` (R174). -/
def chervilHeld (c : Ctl) (r : Req) : Bool := !(holders c r).isEmpty

/-- A write of request `x` waits at the watermark line of a migration, itself or with its parity difference (R380, R399). -/
def atCopy (c : Ctl) (x : Req) : Bool :=
  let mine (o : LineOp) : Bool := match o.owner with
    | .req id _ => decide (id = x.id)
    | .wc _ ms => ms.any (fun m => decide (m.1 = x.id))
    | _ => false
  c.port.ops.any (fun o => mine o && decide (o.cause = some .migration))
    || c.port.parity.any (fun j => mine j.op && decide (j.res.cause = some .migration))

/-- The slip cause of Chervil's hold: the lowest code that applies, so MIGRATION where every earlier write that holds the request waits at the
watermark line, else ORDER (R149, Table 4-3). -/
def chervilCause (c : Ctl) (r : Req) : Cause := if (holders c r).all (atCopy c) then .migration else .order

/-- The request touches a region whose attribute change arrived before it (R73). -/
def regionHeld (c : Ctl) (r : Req) : Bool :=
  match c.region with
  | none => false
  | some ch =>
    decide (ch.serial ≤ r.id) && decide (r.verdict = .serve) &&
      (reqTas c r).any (fun t => decide (regionOf (canonTa r.remap t) = some ch.n))

/-- Bytes of response storage that a request needs (R108); it is kept until its last beat has been driven (log 91). -/
def storageOf (r : Req) : Nat := r.beats * (if lpb r.port = 0 then 32 else 64 * lpb r.port)

/-- Response storage in use on an elastic port. -/
def storageUsed (c : Ctl) (p : Port) : Nat :=
  ((c.port.reqs.filter (fun r => decide (r.port = p) && r.released && r.onRs && decide (r.out < r.beats))).map storageOf).sum

/-- Whether the head request of a port leaves its ring now (R100, R108, R113, R141, R171, R179): `none` when it does, else the slip cause of
the hold, if it has one. A write that a fence refused for want of data leaves at once, and a read that a fence discards waits for no lag: it
has no delivery (R142, R468). -/
def holdOf (c : Ctl) (r : Req) : Option (Option Cause) :=
  if r.reg.isNone then some none
  else if r.beatsIn < r.dataBeats then (if r.discard && decide (r.verdict = .fenced) then none else some none)
  else if r.range = .waiting then some (some .order)
  else if chervilHeld c r then some (lowCause (some (chervilCause c r)) (if regionHeld c r then some .region else none))
  else if regionHeld c r then some (some .region)
  else
    match r.due with
    | some d =>
      if r.discard then none
      else match groupOf c r.port with
      | some g => if (grpOf c g).tick + reqLag c g r < d then some none else none
      | none => none
    | none => if r.onRs && decide (65536 < storageUsed c r.port + storageOf r) then some none else none

/-- A line of the request completes without its slice. -/
def lineNow (r : Req) (i : Nat) (res : LineRes) (c : Ctl) : Ctl :=
  let c1 := setReqRes r.id i res c
  if res.st = .absent then emit (evPort 0x03 r.port) c1 else c1

/-- Start line `i` of a stored-view READ (R43, R95). -/
def startRead (r : Req) (c : Ctl) (i : Nat) : Ctl :=
  let ta := canonTa r.remap (r.f.addr + 64 * i)
  if lineMask r i = 0 then emit { evPort 0x2E r.port with port := none } (lineNow r i (resData zeroLine false) c)
  else
    match addrStatus c false ta with
    | some st => lineNow r i (resSt st) c
    | none => pushOp (.req r.id i) ta .read (privPort r.port) r.f.qos c

/-- Start line `i` of a ZMAP (R270, R272). A parity line completes with OK whatever its bank and its zero-bit group are (DESIGN CHOICE, log
138). -/
def startZmap (r : Req) (c : Ctl) (i : Nat) : Ctl :=
  let ta := canonTa r.remap (r.f.addr + 64 * i)
  let exc (st : Status) (c : Ctl) : Ctl :=
    emit { evPort 0x2D r.port with port := none } (lineNow r i { resSt st with exc := true } c)
  match windowOf c ta with
  | .regs => exc .unsupported c
  | .none => exc .absent c
  | _ => if isParity c ta then exc .ok c else pushOp (.req r.id i) ta .tag (privPort r.port) r.f.qos c

/-- Start unit `u` of a dense READ (R231, R243). -/
def startUnit (r : Req) (c : Ctl) (u : Nat) : Ctl :=
  let ta := canonTa r.remap (r.f.addr + 64 * u)
  let acc : Acc := match sideOf c ta with | some (s, lo, n) => .unitRead s lo n | none => .read
  pushOp (.req r.id u) ta acc (privPort r.port) r.f.qos c

/-- The units that a dense READ fetches. -/
def unitsFetched (c : Ctl) (r : Req) : List Nat :=
  (List.range (unitCount (reqGeo c r.remap r.f) r.f.vty r.len)).filter (fun u =>
    unitNeeded r (reqGeo c r.remap r.f) u &&
      (List.range r.len).any (fun i => match viewOf c r.remap r.f.addr r.f.vty i with
        | .units us => us.contains (r.f.addr + 64 * u)
        | _ => false))

/-- Count the view lines of a request (R44, R261): the view bytes of those served under source `src`, those that R235 refuses, those without
storage, which are what source 0x03 counts of a view stream at a port (log 113). A fully masked line is none of them: it is counted as not
fetched, or not written (R95, R96, R294). Nor is one whose payload lines cannot be written from their address alone. -/
def countViews (src : Nat) (r : Req) (c : Ctl) : Ctl :=
  (List.range r.len).foldl (fun c i =>
    if lineMask r i = 0 then emit { evPort (if r.op = .write then 0x2F else 0x2E) r.port with port := none } c
    else match viewOf c r.remap r.f.addr r.f.vty i with
      | .unsupported => emit (evZ 0x26 (codecZone r)) c
      | .absent => emit (evPort 0x03 r.port) c
      | .units us =>
        if r.op = .write ∧ us.any (fun u => (addrStatus c true (canonTa r.remap u)).isSome) = true then c
        else token 5 1 (emit { evZ src (codecZone r) with w := 64 } c)) c

/-- A pack WRITE gives element `p` of payload line `u`: its view bytes are not all masked (R238). -/
def packsElem (r : Req) (g : Geo) (u p : Nat) : Bool :=
  let v := viewLen r.f.vty
  let k := (u * g.e + p) % v
  let m := lineMask r ((u * g.e + p) / v)
  if r.f.vty then m.testBit (2 * k) || m.testBit (2 * k + 1) else m.testBit k

/-- Bytes of a payload line that a masked pack WRITE to a DENSE region changes (R238). -/
def packMask (r : Req) (g : Geo) (u : Nat) : Nat :=
  let w := g.elem.width / 8
  (List.range g.e).foldl (fun a p => if packsElem r g u p then a + (2 ^ w - 1) * 2 ^ (w * p) else a) 0

/-- The write data of line `i`; on HP a line is poisoned when either of its half lines is (R100, log 97). -/
def wline (r : Req) (i : Nat) : Line × Bool :=
  if lpb r.port = 0 then
    let a := r.wdata.getD (2 * i) ([], false)
    let b := r.wdata.getD (2 * i + 1) ([], false)
    ((List.range 64).map (fun k => if k < 32 then a.1.getD k 0 else b.1.getD (k - 32) 0), a.2 || b.2)
  else r.wdata.getD i ([], false)

/-- What the quantising of a unit by the codec of zone `z` counts: elements saturated, blocks written with scale 0xFF, and elements pruned
(R261); a unit that is stored poisoned has none of them (R248). -/
def countQuant (z : Nat) (q : Quant) (c : Ctl) : Ctl :=
  emit { evZ 0x22 z with w := q.sat } (emit { evZ 0x23 z with w := q.nanBlocks } (emit { evZ 0x24 z with w := q.pruned } c))

/-- Start payload line `u` of a pack WRITE (R244..R248). A fully masked view line has no part in it, so that a payload line that only such lines
feed is OK without more, and a masked element counts as no saturated one (R96, R238, R261). -/
def startPack (r : Req) (c : Ctl) (u : Nat) : Ctl :=
  let g := reqGeo c r.remap r.f
  let v := viewLen r.f.vty
  let ta := canonTa r.remap (r.f.addr + 64 * u)
  let views := (List.range r.len).filter (fun i => decide (i * v < (u + 1) * g.e ∧ u * g.e < (i + 1) * v))
  let fed := views.filter (fun i => decide (lineMask r i ≠ 0))
  if fed = [] then lineNow r u (resSt .ok) c else
  let bad := fed.foldl (fun a i => match viewOf c r.remap r.f.addr r.f.vty i with
    | .units _ => a
    | .absent => worst a .absent
    | .unsupported => worst a .unsupported) .ok
  if bad ≠ .ok then setReqRes r.id u (resSt bad) c
  else
    match addrStatus c true ta with
    | some x => setReqRes r.id u (resSt x) c
    | none =>
      let poison := fed.any (fun i => (wline r i).2)
      let vals := (views.map (fun i => viewValues r.f.vty (wline r i).1)).flatten
      let xs := ((vals.drop (u * g.e - (views.headD 0) * v)).take g.e).zipIdx.map (fun x => if packsElem r g u x.2 then x.1 else .zero)
      let draws := if drawsPort r then lfsrValues g.e (lfsrAfter (u * g.e) r.lfsr) else []
      let q := quantUnit g draws xs
      let z := codecZone r
      let c1 := if poison then c else countQuant z q c
      match sideOf c ta with
      | some (s, lo, _) => pushOp (.req r.id u) ta (.unitWrite q.pay poison s lo q.entry) (privPort r.port) r.f.qos c1
      | none =>
        let mask := if r.f.emen then packMask r g u else fullMask
        if mask = 0 then lineNow r u (resSt .ok) c1
        else pushOp (.req r.id u) ta (.write q.pay mask poison) (privPort r.port) r.f.qos c1

/-- Start line `i` of a stored-view WRITE (R96, R100, R180). -/
def startWrite (r : Req) (c : Ctl) (i : Nat) : Ctl :=
  let ta := canonTa r.remap (r.f.addr + 64 * i)
  if lineMask r i = 0 then emit { evPort 0x2F r.port with port := none } (lineNow r i (resSt .ok) c)
  else
    match addrStatus c true ta with
    | some st => lineNow r i (resSt st) c
    | none =>
      let (d, poison) := wline r i
      match portCore r.port with
      | none => pushOp (.req r.id i) ta (.write d (byteMask (lineMask r i)) poison) (privPort r.port) r.f.qos c
      | some z =>
        if wcPort r && !poison then flushMet z false (wcEnter z ta d (byteMask (lineMask r i)) (r.id, i) c)
        else pushOp (.req r.id i) ta (.write d (byteMask (lineMask r i)) poison) (privPort r.port) r.f.qos
          (flushWhere z 2 (fun e => decide (e.ta = ta)) c)

/-- Results that a request needs before it is complete. -/
def needed (c : Ctl) (r : Req) : Nat :=
  if r.verdict ≠ .serve then 0
  else if r.op = .zmap ∨ r.f.view = 0 then r.len
  else if r.op = .read then (unitsFetched c r).length
  else unitCount (reqGeo c r.remap r.f) r.f.vty r.len

/-- Line `i` of the WRITE merges into a WC entry (R181). -/
def mergesLine (c : Ctl) (r : Req) (i : Nat) : Bool :=
  wcPort r && (match portCore r.port with
    | some z => (chvOf c z).wc.any (fun e => decide (e.ta = canonTa r.remap (r.f.addr + 64 * i)))
    | none => false)

/-- Start the lines of a stored-view WRITE: those that merge into WC entries first, so that no line of it takes such an entry from the buffer
before they have merged (R169, R181, R182). -/
def startWrites (r : Req) (c : Ctl) : Ctl :=
  let is := List.range r.len
  (is.filter (fun i => mergesLine c r i) ++ is.filter (fun i => !mergesLine c r i)).foldl (startWrite r) c

/-- The request leaves its port ring: its lines are resolved and sent toward their slices (R43, R113). -/
def release (r : Req) (c : Ctl) : Ctl :=
  let c1 := setReq { r with released := true, nOps := needed c r } c
  if r.verdict ≠ .serve then c1
  else
    match r.op with
    | .zmap => (List.range r.len).foldl (startZmap r) c1
    | .read =>
      if r.f.view = 0 then (List.range r.len).foldl (startRead r) c1
      else countViews 0x20 r ((unitsFetched c r).foldl (startUnit r) c1)
    | .write =>
      if r.f.view = 0 then flushPort r.port (startWrites r c1)
      else countViews 0x21 r ((List.range (unitCount (reqGeo c r.remap r.f) r.f.vty r.len)).foldl (startPack r) c1)

/-- A poisoned line of a write whose data is complete merges into no WC entry: the entries that it overlaps leave for their slices, with those
into which a request can then merge no more, and the write is held until they retire (R174, R180, R182). -/
def flushPoisoned (r : Req) (c : Ctl) : Ctl :=
  match portCore r.port with
  | none => c
  | some z =>
    if wcPort r && r.reg.isSome && decide (r.dataBeats ≤ r.beatsIn) && r.wdata.any Prod.snd then
      let ts := ((List.range r.len).filter (fun i => (wline r i).2 && decide (lineMask r i ≠ 0))).map
        (fun i => canonTa r.remap (r.f.addr + 64 * i))
      flushMet z true (flushWhere z 2 (fun e => ts.any (fun t => (lineSpan c true e.ta).meets (lineSpan c true t))) c)
    else c

/-- One port ring step: the request is released unless an earlier one of its port, or its own hold, keeps it (R113). What waits behind a
held request carries the mark of that hold (R150, R177). A mark stays with its request; of several the lowest code does (R149). -/
def pumpOne (acc : Ctl × List (Port × Option Cause)) (id : Nat) : Ctl × List (Port × Option Cause) :=
  match findReq acc.1 id with
  | none => acc
  | some r =>
    if r.released then acc
    else
      match acc.2.find? (fun p => decide (p.1 = r.port)) with
      | some p => (setReq { r with cause := lowCause r.cause p.2 } acc.1, acc.2)
      | none =>
        let c := flushPoisoned r acc.1
        match holdOf c r with
        | none => (release r c, acc.2)
        | some k => (setReq { r with cause := lowCause r.cause k } c, acc.2 ++ [(r.port, k)])

/-- Every port ring releases what it can, in acceptance order. -/
def pump (c : Ctl) : Ctl := ((c.port.reqs.map Req.id).foldl pumpOne (c, [])).1

/-- Write ranges of core `z` in use (R178). -/
def rangesHeld (c : Ctl) (z : Nat) : Nat :=
  (c.port.reqs.filter (fun r => decide (portCore r.port = some z ∧ r.range = .held))).length

/-- Register a request (R171, R178, R179, R182, R252). -/
def registerReq (z : Nat) (r : Req) (c : Ctl) : Ctl :=
  let n := c.port.regNo
  let c0 := { c with port := { c.port with regNo := n + 1 } }
  let r1 := { r with reg := some n }
  if r.verdict ≠ .serve then setReq r1 c0
  else
    let flushed := flushMet z true (setReq r1 c0)
    if r.op ≠ .write then flushed
    else
      let s := tabGet 1 c.lfsrPort z
      let (r2, c1) := if drawsPort r then
          ({ r1 with lfsr := s }, { flushed with lfsrPort := tabPut 1 z (lfsrAfter (elemCount r) s) flushed.lfsrPort })
        else (r1, flushed)
      if rangesHeld c z < 32 then setReq { r2 with range := .held } c1
      else flushWhere z 5 (fun _ => true)
        (emit ⟨0x18, 1, 0, some z, some (portIndex r.port), none⟩ (setReq { r2 with range := .waiting } c1))

/-- What Chervil registers next. -/
inductive Item where
  | req (id : Nat)
  | kend (i : Nat)
  | gone (end_ : Nat × Nat)
  | db (i : Nat)
  | sy (i : Nat)
deriving DecidableEq, Repr

/-- The unregistered items of core `z` with their stamps. -/
def items (c : Ctl) (z : Nat) : List (Nat × Item) :=
  let x := chvOf c z
  (c.port.reqs.filter (fun r => decide (portCore r.port = some z) && r.reg.isNone)).map (fun r => (r.f.seq % 256, .req r.id))
    ++ (x.ends.zipIdx.filter (fun e => e.1.reg.isNone)).map (fun e => (e.1.seq % 256, .kend e.2))
    ++ x.gone.map (fun s => (s.1 % 256, .gone s))
    ++ (x.dbs.zipIdx.filter (fun d => d.1.reg.isNone)).map (fun d => (d.1.seq % 256, .db d.2))
    ++ (x.sy.zipIdx.filter (fun o => o.1.reg.isNone)).map (fun o => (o.1.f.seq % 256, .sy o.2))

/-- The pc at which each unregistered item of core `z` was accepted (R172). -/
def itemPcs (c : Ctl) (z : Nat) : List Nat :=
  let x := chvOf c z
  (c.port.reqs.filter (fun r => decide (portCore r.port = some z) && r.reg.isNone)).map Req.pc
    ++ (x.ends.filter (fun e => e.reg.isNone)).map KEnd.pc ++ x.gone.map (fun s => s.2)
    ++ (x.dbs.filter (fun d => d.reg.isNone)).map Doorbell.pc ++ (x.sy.filter (fun o => o.reg.isNone)).map SyOp.pc

/-- Distance of a stamp from the next expected one, modulo 256. -/
def stampAhead (e s : Nat) : Nat := (s + 256 - e % 256) % 256

/-- Give an item its registration number. -/
def registerItem (z : Nat) (it : Item) (c : Ctl) : Ctl :=
  let x := chvOf c z
  let n := c.port.regNo
  let c1 := { c with port := { c.port with regNo := n + 1 } }
  match it with
  | .req id => match findReq c id with | some r => registerReq z r c | none => c
  | .kend i => setChv z { x with ends := x.ends.modify i (fun e => { e with reg := some n, since := some (e.since.getD n) }) } c1
  | .gone s => setChv z { x with
      gone := x.gone.erase s
      ends := x.ends.modify (x.ends.length - 1) (fun e => { e with since := some (e.since.getD n) }) } c1
  | .db i => setChv z { x with dbs := x.dbs.modify i (fun d => { d with reg := some n }) } c1
  | .sy i => setChv z { x with sy := x.sy.modify i (fun o => { o with reg := some n }) } c1

/-- In a drain the waiting item whose stamp comes first is registered, and the gap before it is skipped (R468). -/
def registerNext (z : Nat) (c : Ctl) : Ctl :=
  let e := (chvOf c z).e
  match (items c z).foldl (fun (m : Option (Nat × Item)) p => match m with
    | none => some p
    | some x => if stampAhead e p.1 < stampAhead e x.1 then some p else some x) none with
  | some p => let c1 := registerItem z p.2 c; setChv z { chvOf c1 z with e := (p.1 + 1) % 256 } c1
  | none => c

/-- Chervil registers the next item of core `z` (R171, R173): one outside the stamp window at once, with its error, else the one that
carries the expected stamp. -/
def chervilRegister (z : Nat) (c : Ctl) : Ctl :=
  let e := (chvOf c z).e
  match (items c z).find? (fun p => decide (128 ≤ stampAhead e p.1)) with
  | some p => emit (evZ 0x1A z) (raiseInt 21 (raiseBit chvErr (16 + z) (registerItem z p.2 c)))
  | none =>
    match (items c z).find? (fun p => decide (p.1 = e)) with
    | some p => let c1 := registerItem z p.2 c; setChv z { chvOf c1 z with e := (e + 1) % 256 } c1
    | none => if zoneFenced c z then registerNext z c else c

/-- Every WRITE of core `z` registered before `n` has retired (R176, R186). -/
def writesRetired (c : Ctl) (z n : Nat) : Bool :=
  c.port.reqs.all (fun r => !(decide (portCore r.port = some z ∧ (r.range = .held ∨ r.range = .waiting)) &&
    (match r.reg with | some m => decide (m < n) | none => false)))

/-- An end of core `z` registered before `n`, or a replaced one that another end stands for, is not recorded yet (R187, R189). -/
def endPending (c : Ctl) (z n : Nat) : Bool :=
  (chvOf c z).ends.any (fun e => match e.since with | some m => decide (m < n) | none => false)

/-- A write takes the first range that retires (R179); of several that wait, the one registered first (log 92). -/
def grantRange (z : Nat) (c : Ctl) : Ctl :=
  let ws := c.port.reqs.filter (fun r => decide (portCore r.port = some z ∧ r.range = .waiting))
  match ws.foldl (fun m r => match m with | none => some r | some x => if r.reg.getD 0 < x.reg.getD 0 then some r else some x) none with
  | some r => if rangesHeld c z < 32 then setReq { r with range := .held } c else c
  | none => c

/-- Add an end; a third one replaces the newer of the two unrecorded ones (R185, R187). -/
def addEnd (z seq : Nat) (c : Ctl) : Ctl :=
  let x := chvOf c z
  match x.ends with
  | a :: b :: _ =>
    setChv z { x with
      ends := [a, ⟨seq, none, b.count + 1, c.pc, b.since⟩]
      gone := if b.reg.isNone then x.gone ++ [(b.seq, b.pc)] else x.gone } c
  | es => setChv z { x with ends := es ++ [⟨seq, none, 1, c.pc, none⟩] } c

/-- Record the ends of core `z` whose earlier writes have all retired, with the ends before them in program order (R186, R187): an end is
registered in program order, or under R173 after all that is registered already. While the zone is fenced none is recorded (R468). -/
def recordEnds (z : Nat) (c : Ctl) : Ctl :=
  let x := chvOf c z
  let ready := if zoneFenced c z then [] else x.ends.filter (fun e => match e.reg with | some n => writesRetired c z n | none => false)
  match ready.foldl (fun (m : Option KEnd) e => match m with
      | none => some e
      | some y => if y.reg.getD 0 < e.reg.getD 0 then some e else m) none with
  | none => c
  | some last =>
    let mine (e : KEnd) : Bool := match e.reg with | some n => decide (n ≤ last.reg.getD 0) | none => false
    let n := ((x.ends.filter mine).map KEnd.count).sum
    let c1 := setChv z { x with ends := x.ends.filter (fun e => !mine e) } c
    let c2 := modReg (chvKend z) (fun v => setBits (setBits v 24 8 last.seq) 0 24 (bits v 0 24 + n)) c1
    drive (.kDone z (last.seq % 256)) (emit { evZ 0x1E z with w := n } c2)

/-- Queue an invalidation toward the cache of core `z`, followed by the alias that R196 asks for (log 93); a core whose domain is fenced or in
reset takes none (R199). -/
def queueInv (z : Nat) (i : Inv) (c : Ctl) : Ctl :=
  if !domReleased c z || devFenced c then c
  else
    let x := chvOf c z
    let last := i.addr + 256 * i.granules
    let hi := min last (taSpread + 0x1000000)
    let lo := max i.addr taSpread
    let alias_ : List Inv :=
      if !i.all && remapNow c && decide (lo < hi) then [{ i with addr := lo - taSpread, granules := (hi - lo) / 256 }] else []
    setChv z { x with invQ := x.invQ ++ [i] ++ alias_ } c

/-- The identifier that an invalidation takes (R195): the lowest that is not outstanding (DESIGN CHOICE, log 136). -/
def freeInvId (x : Chv) : Option Nat := (List.range 16).find? (fun i => x.invOut.all (fun o => decide (o.id ≠ i)))

/-- Qualifier of source 0x1C (R197). -/
def InvWhy.qual (w : InvWhy) : Nat :=
  match w with
  | .command _ => 0
  | .release => 1
  | .inval _ => 2

/-- An invalidation or a Sorrel response to core `z` has been driven in the present pc (R195, R341). -/
def invDriven (c : Ctl) (z : Nat) : Bool := c.edge.any (fun e => match e with | .inv y _ _ _ _ => decide (y = z) | _ => false)
def srDriven (c : Ctl) (z : Nat) : Bool := c.edge.any (fun e => match e with | .sr y _ _ _ => decide (y = z) | _ => false)

/-- Send the next invalidation of core `z`, one per pc (R195). It is outstanding, and its time limit (R199) runs, from its presentation; what
vx_inv_rdy shows is no input of the model (DESIGN CHOICE, log 137). -/
def issueInv (z : Nat) (c : Ctl) : Ctl :=
  let x := chvOf c z
  match x.invQ, freeInvId x with
  | i :: rest, some id =>
    if invDriven c z then c
    else drive (.inv z id i.all i.addr i.granules) (emit { evZ 0x1C z with qual := i.why.qual }
      (setChv z { x with invQ := rest, invOut := x.invOut ++ [⟨id, i, c.rtc⟩] } c))
  | _, _ => c

/-- An invalidation outstanding under `id` is complete (R195). -/
def dropInv (z id : Nat) (c : Ctl) : Ctl :=
  let x := chvOf c z
  setChv z { x with invOut := x.invOut.filter (fun o => decide (o.id ≠ id)) } c

/-- The invalidation with token `t` has completed or timed out at every core. -/
def tokDone (c : Ctl) (t : Nat) : Bool :=
  c.chv.all (fun p => p.2.invQ.all (fun i => decide (i.tok ≠ t)) && p.2.invOut.all (fun o => decide (o.inv.tok ≠ t)))

/-- No invalidation of queue `q`'s command is waiting or outstanding (R192). -/
def invsDone (c : Ctl) (q : Nat) : Bool :=
  let mine (i : Inv) : Bool := decide (i.why = .command q ∨ i.why = .inval q)
  c.chv.all (fun p => p.2.invQ.all (fun i => !mine i) && p.2.invOut.all (fun o => !mine o.inv))

end Sys2Proof.Machine
end

