-- ==== Sys2Proof/Machine/Thyme.lean ====
section
/-! DEFINITION. Thyme: the cut-off of each tick, hold units and their accounting, full-rate pacing, and what the end of a port cycle
does to the schedule groups (R129..R167). -/

namespace Sys2Proof.Machine

/-- The configuration load has completed (BRL_LOAD_ST.done). -/
def loadDone (c : Ctl) : Bool := bit (reg c brlLoadSt) 31

/-- A supply warning or a wake freeze is active (R150, R435). -/
def dipActive (c : Ctl) : Bool :=
  decide (c.pin.mvA < Config.warnA ∨ c.pin.mvB < Config.warnB) || !c.pwr.freeze.isEmpty

/-- The mark of a late request (R149, R150): its own, those of its accesses under way, else SUPPLY_DIP or PATH. -/
def lateCause (c : Ctl) (r : Req) : Cause :=
  let ops := c.port.ops.filter (fun o => match o.owner with | .req id _ => decide (id = r.id) | _ => false)
  match ops.foldl (fun m o => lowCause m o.cause) r.cause with
  | some k => k
  | none => if dipActive c then .supplyDip else .path

/-- The cause of the beat due at tick `t` of a request, when it is late (R143, R147). -/
def lateAt (c : Ctl) (g t : Nat) (r : Req) : Option Cause :=
  match r.due with
  | none => none
  | some d =>
    let excused := match portCore r.port with | some z => !domReleased c z | none => false
    if groupOf c r.port = some g ∧ d + r.out ≤ t ∧ t < d + r.beats ∧ excused = false ∧ beatReady c r (t - d) = false then
      some (lateCause c r)
    else none

/-- The group's own hold reasons (R37, R142, R146, R151, R153): a request beyond the reservation ring holds from the first cut-off after its
acceptance edge. -/
def ownReason (c : Ctl) (g : Nat) : Option Cause :=
  let x := grpOf c g
  lowCause (lowCause (if x.fullRateDue then some .fullRate else none)
      (if lovHoldsGroup c g then some (if profileOf c g = 2 then .lean else .lovage) else none))
    (if x.horizon.any (fun h => decide (h.2 < c.pc)) then some .horizon else none)

/-- The reason to hold the pc that would carry tick `t` (R144, R146, R149); a Sprint group never holds. -/
def holdReason (c : Ctl) (g t : Nat) : Option Cause :=
  if profileOf c g = 1 then none
  else c.port.reqs.foldl (fun m r => lowCause m (lateAt c g t r)) (ownReason c g)

/-- The tick whose cut-off falls in the present pc: the one that the pc after next would carry (R143, R144). -/
def cutoffTick (x : Grp) : Option Nat :=
  if x.next1.isSome then none
  else if !x.active then some (x.tick + 2)
  else if x.left = 2 then some x.tick
  else if x.left ≤ 1 then some (x.tick + 1)
  else none

/-- The group begins no hold unit during SLEEP entry: sg_hold stays 0 (R425, R429). -/
def holdsNone (c : Ctl) : Bool := c.pwr.entry.isSome

/-- The cut-off of the present pc for a group (R143, R144), done once per pc; a hold for Lovage counts in the interval that decides it (R455). -/
def holdCutoff (g : Nat) (c : Ctl) : Ctl :=
  let x := grpOf c g
  if x.tested then c
  else
    match cutoffTick x with
    | none => c
    | some t =>
      match if holdsNone c then none else holdReason c g t with
      | none => setGrp g { x with tested := true } c
      | some k =>
        let c1 := setGrp g { x with tested := true, next2 := some k, fullRateDue := false } c
        if k = .lovage ∨ k = .lean then lovTurnedAway g c1 else c1

/-- A hold unit begins (R144, R149, R156, R157). -/
def beginUnit (g : Nat) (k : Cause) (c : Ctl) : Ctl :=
  let x := grpOf c g
  let cont := x.active
  let units := if cont then x.units + 1 else 1
  let first := if cont then x.cause.getD k else k
  let x' := { x with active := true, left := 8, units := units, cause := some first,
                     startTick := if cont then x.startTick else x.tick,
                     startRtc := if cont then x.startRtc else c.rtc,
                     warned := cont && x.warned, sincePace := if 40 ≤ x.sincePace then 0 else x.sincePace }
  let c1 := emit (evG 0x11 k.code g) (bumpSat (thySlip g k.code) 0 32 (setGrp g x' c))
  let c2 := if cont then c1 else emit (evG 0x10 k.code g) c1
  let n := min (2 ^ 24 - 1) units
  if bits (reg c2 (thyLong g)) 0 24 < n then
    setReg (thyLongAt g) (BitVec.ofNat 32 x'.startTick)
      (setReg (thyLong g) (BitVec.ofNat 32 (first.code <<< 28 + n)) c2)
  else c2

/-- HOLD_UNIT_END (R144): the unit in its last pc is over. -/
def unitEnd (g : Nat) (c : Ctl) : Ctl :=
  let x := grpOf c g
  if x.active ∧ x.left = 1 then setGrp g { x with left := 0 } c else c

/-- The ticks that the group still carries before the pc that the present cut-off decides (R144, R146). -/
def leadTicks (x : Grp) : Nat := if x.active then (if x.left ≤ 1 then 1 else 0) else 2

/-- FULL_RATE_HOLD (R146, R151): the unit that follows 40 ticks of a paced group is due at the cut-off of the tick it replaces, once: not
after that cut-off has been taken. -/
def fullRateHold (g : Nat) (c : Ctl) : Ctl :=
  let x := grpOf c g
  if c.frPace ∧ profileOf c g ≠ 1 ∧ holdsNone c = false ∧ x.tested = false ∧ x.next1 = none ∧ 40 ≤ x.sincePace + leadTicks x then setGrp g { x with fullRateDue := true } c
  else c

/-- The pc ends for a group: the tick it carried is counted, and the next pc begins a unit, continues one, or carries a tick. -/
def groupEdge (g : Nat) (c : Ctl) : Ctl :=
  let x := grpOf c g
  let x1 := if x.active then { x with left := x.left - 1 } else { x with tick := x.tick + 1, sincePace := x.sincePace + 1 }
  let c1 := if x.active then c else emit ⟨0x12, 1, 0, none, none, some g⟩ c
  let c2 := setGrp g { x1 with next1 := x.next2, next2 := none, tested := false } c1
  match if holdsNone c then none else x.next1 with
  | some k => beginUnit g k c2
  | none => if x.active ∧ x.left ≤ 1 then setGrp g { grpOf c2 g with active := false, units := 0, cause := none, warned := false } c2 else c2

/-- Release the groups when the load completes (R129, R135). -/
def startGroups (c : Ctl) : Ctl :=
  { c with grp := (List.range 4).foldl (fun t g => tabPut Grp.rest g { Grp.rest with active := false } t) [] }

/-- The device's phase while its base logic has power: neither in SLEEP, nor on its way out of it, nor held in reset (R41, R430, R456). -/
def baseLogicOn (c : Ctl) : Bool := decide (c.dev.run = .loading ∨ c.dev.run = .starting ∨ c.dev.run = .running ∨ c.dev.run = .noImage)

/-- Full-rate pacing starts or ends with the levels of VDD_A and VDD_B (R151, R152). -/
def fullRateLevels (mvA mvB : Nat) (c : Ctl) : Ctl :=
  let cfg := reg c thyCfg
  let able := decide (2000 < bits cfg 0 12) && bit cfg 12
  let on := able && (decide (mvA < 800 ∨ mvB < 800) || (c.frPace && !decide (810 ≤ mvA ∧ 810 ≤ mvB)))
  let c1 := { c with frPace := on }
  if on && !c.frPace then (List.range 4).foldl (fun c g => setGrp g { grpOf c g with sincePace := 0 } c) c1 else c1

/-- Level of a rail, and its warning and brown-out levels (Table 11-5). -/
def railMv (c : Ctl) (r : Rail) : Nat := match r with | .vddA => c.pin.mvA | .vddB => c.pin.mvB
def railWarn (r : Rail) : Nat := match r with | .vddA => Config.warnA | .vddB => Config.warnB
def railBor (r : Rail) : Nat := match r with | .vddA => Config.borA | .vddB => Config.borB
def railIdx (r : Rail) : Nat := match r with | .vddA => 0 | .vddB => 1

/-- The monitors of VDD_A and VDD_B act: not in SLEEP, and not on an island that is in reset (R430). -/
def monitorsOn (c : Ctl) : Bool := decide (c.dev.run ≠ .asleep ∧ c.dev.run ≠ .island)

/-- SUPPLY_WARN is raised for supply `i` (R435, R436): at once, or once MP opens where the registers have no power. -/
def warnRaise (i : Nat) (c : Ctl) : Ctl :=
  if c.dev.run = .asleep ∨ c.dev.run = .waking then { c with pwr := { c.pwr with warnDue := insertNew i c.pwr.warnDue } }
  else emit (evQ 0x87 i) (latchPwr 1 c)

/-- The warnings that came in SLEEP are raised (R436). -/
def warnDueNow (c : Ctl) : Ctl :=
  let c1 := { c with pwr := { c.pwr with warnDue := [] } }
  c.pwr.warnDue.foldl (fun c i => emit (evQ 0x87 i) (latchPwr 1 c)) c1

/-- Rail `r` stands at `mv`, `old` before: below its warning level the lowest value is recorded and wakes freeze; a fall to there sets the
rail's bit and raises SUPPLY_WARN (R434, R435). -/
def railWarned (r : Rail) (mv old : Nat) (c : Ctl) : Ctl :=
  if railWarn r ≤ mv then c
  else
    let lo := if r = .vddA then 0 else 8
    let c1 := modReg pwrSupSt (fun v => setBits v lo 8 (min (bits v lo 8) ((mv - 500) / 5))) c
    let c2 := { c1 with pwr := { c1.pwr with freeze := insertNew (railIdx r) c1.pwr.freeze } }
    if railWarn r ≤ old then warnRaise (railIdx r) (modReg pwrSupSt (fun v => setBit v (24 + railIdx r) true) c2) else c2

/-- The supply monitors report the levels of VDD_A and VDD_B (R151, R434, R435). -/
def supplyLevels (mvA mvB : Nat) (c : Ctl) : Ctl :=
  let c1 := { c with
    pin := { c.pin with mvA := mvA, mvB := mvB }
    pwr := { c.pwr with
      okSinceA := if c.pin.mvA < Config.warnA ∧ Config.warnA ≤ mvA then c.rtc else c.pwr.okSinceA
      okSinceB := if c.pin.mvB < Config.warnB ∧ Config.warnB ≤ mvB then c.rtc else c.pwr.okSinceB } }
  let c2 := if baseLogicOn c then fullRateLevels mvA mvB c1 else c1
  if monitorsOn c then railWarned .vddB mvB c.pin.mvB (railWarned .vddA mvA c.pin.mvA c2) else c2

/-- THY_HOLD_LONG (R148): once for a hold that passes the limit. -/
def holdLong (g : Nat) (c : Ctl) : Ctl :=
  let x := grpOf c g
  if x.active ∧ x.cause.isSome ∧ x.warned = false ∧ 32 * bits (reg c thyCfg) 24 4 < c.rtc - x.startRtc then
    raiseInt 20 (setGrp g { x with warned := true } c)
  else c

/-- Drive the next response beat of a request and count busy and FENCED responses (R102, R120, R506). -/
def beatOut (r : Req) (c : Ctl) : Ctl :=
  let e := beatEdge c r r.out
  let c1 := drive e (setReq { r with out := r.out + 1 } c)
  let c2 := if r.verdict = .fenced ∧ r.out + 1 = r.beats then emit (evPort 0x0A r.port) c1 else c1
  reap (if (match e with | .rs _ _ _ _ _ _ b => b | _ => false) then emit (evPort 0x07 r.port) c2 else c2)

/-- The delivery of the beat that is due on a fixed-lag port at the present tick (R109, R133), or has been due since a SLEEP entry let its
tick pass unheld (R425, log 145); a discarded request's beat is dropped. -/
def deliver (p : Port) (c : Ctl) : Ctl :=
  match groupOf c p with
  | none => c
  | some g =>
    let x := grpOf c g
    if x.active || !fixedLag c p then c
    else
      match c.port.reqs.find? (fun r => decide (r.port = p ∧ r.out < r.beats) && (match r.due with | some d => decide (d + r.out ≤ x.tick) | none => false)) with
      | none => c
      | some r =>
        if r.discard then reap (setReq { r with out := r.out + 1 } c)
        else if beatReady c r r.out then beatOut r c
        else c

/-- THY_CLR (R165): the slip counts and longest-hold record of group `g`; a hold in progress is counted from its next unit, and keeps the
cause and the starting tick that it began with (log 117). -/
def thyClear (g : Nat) (c : Ctl) : Ctl :=
  let c1 := (List.range 12).foldl (fun c k => setReg (thySlip g (k + 1)) 0 c) c
  setGrp g { grpOf c1 g with units := 0 } (setReg (thyLong g) 0 (setReg (thyLongAt g) 0 c1))

/-- The ports with requests that have a delivery tick. -/
def duePorts (c : Ctl) : List Port := (c.port.reqs.filter (fun r => r.due.isSome)).map Req.port |>.eraseDups

/-- Thyme carries ticks: the image is loaded and the outputs are not latched (R129, R433). -/
def thymeRuns (c : Ctl) : Bool := baseLogicOn c && loadDone c && !bit (reg c pwrSt) 31

/-- Group `g` as its ports see it (R134): sg_hold and the tick count, latched in SLEEP (R433). -/
def groupLevels (c : Ctl) (g : Nat) : Bool × Nat :=
  match c.pwr.latch.bind (fun l => l.groups[g]?) with
  | some x => x
  | none => ((grpOf c g).active, (grpOf c g).tick)

/-- p_sg_hold and p_sg_tick of a core port (R134): their reset values while the zone is clamped (R473), and on a port without a group;
undefined after a clock change (R511, log 40). -/
def sgHoldOut (c : Ctl) (p : Port) : Bool :=
  if c.out.vague then Config.vagueBit c.pc (64 + portIndex p)
  else match portCore p, groupOf c p with
  | some z, some g => isolated c z || (groupLevels c g).1
  | _, _ => true
def sgTickOut (c : Ctl) (p : Port) : Nat :=
  if c.out.vague then (Config.vagueTick c.pc (64 + portIndex p)).toNat
  else match portCore p, groupOf c p with
  | some z, some g => if isolated c z then 0 else (groupLevels c g).2 % 65536
  | _, _ => 0

/-- The credits that Brural owes on its inbound links, one of each in a port cycle (R125). -/
def oweCredits (c : Ctl) : Ctl :=
  c.mov.lpOwed.foldl (fun c p =>
    drive (.lpCrd p.1 1) { c with mov := { c.mov with
      lpOwed := tabPut 0 p.1 (p.2 - 1) c.mov.lpOwed
      lpGiven := tabPut 0 p.1 (tabGet 0 c.mov.lpGiven p.1 + 1) c.mov.lpGiven } }) c

/-- Pacing and quiesce as the next port cycle finds them (R319, R322). -/
def latchPaces (c : Ctl) : Ctl :=
  { c with mov := { c.mov with
      paceNow := c.pin.hot.foldl (fun t s => tabPut 0 s (1 + tabGet 0 c.pin.rate s) t) []
      sqNow := (List.range 20).filter (fun s => bit (reg c movSq) s) } }

/-- Index of a stack port, or of outbound HP, in the tables of credits and beats. -/
def saIndex (p : SaPort) : Nat := match p with | .sp s => s | .hpo => 20

/-- Stack `s` is quiesced (R322): a cleared bit resumes it from the next port cycle. -/
def quiesced (c : Ctl) (s : Nat) : Bool := bit (reg c movSq) s || c.mov.sqNow.contains s

/-- The rate at which stack `s` is paced in this port cycle, if it is: a rise of HOT acts at once, a fall and a change of rate from the next
cycle on (R319). -/
def pacedAt (c : Ctl) (s : Nat) : Option Nat :=
  match tabGet 0 c.mov.paceNow s with
  | 0 => if c.pin.hot.contains s then some (tabGet 0 c.pin.rate s) else none
  | n + 1 => some n

/-- Beats issued on stack port `s` in the last `n` port cycles: write data beats sent, and read beats requested (R122). -/
def recentBeats (c : Ctl) (s n : Nat) : Nat := ((tabGet [] c.mov.saBeats s).filter (fun p => decide (c.pc < p + n))).length

/-- One beat more may be issued on a port in this cycle: on a stack port one a cycle, 64 in 64 cycles, and at the paced rate while HOT (R122,
R319). -/
def beatFits (c : Ctl) (p : SaPort) : Bool :=
  match p with
  | .hpo => true
  | .sp s => decide (recentBeats c s 1 = 0 ∧ recentBeats c s 64 < 64)
      && (match pacedAt c s with | some n => decide (recentBeats c s 256 < max n 1) | none => true)

/-- A beat of queue `q` has been issued on a stack port (R122, source 0x3C). -/
def noteBeat (p : SaPort) (q : Nat) (c : Ctl) : Ctl :=
  match p with
  | .hpo => c
  | .sp s => emit (evQueue 0x3C s q) { c with mov := { c.mov with
      saBeats := tabPut [] s (((tabGet [] c.mov.saBeats s).filter (fun x => decide (c.pc < x + 256))) ++ [c.pc]) c.mov.saBeats } }

/-- The request outstanding on a port under a tag. -/
def saFind (c : Ctl) (p : SaPort) (tag : Nat) (wr : Bool) : Option SaReq :=
  c.mov.sa.find? (fun r => decide (r.port = p ∧ r.tag = tag ∧ r.wr = wr))

/-- Port `p` sends its next write data beat, if the stack or the host takes it (R98, R122, R123); the beats of a port go out in the order of
their requests. -/
def sendBeat (p : SaPort) (c : Ctl) : Ctl :=
  match c.mov.wd.find? (fun b => decide (b.port = p)) with
  | none => c
  | some b =>
    if beatFits c p && Config.takesBeat (saIndex p) c.pc then
      noteBeat p (match saFind c p b.tag true with | some r => r.q | none => 0)
        (drive (.saWd p b.data b.mask b.poison) { c with mov := { c.mov with wd := c.mov.wd.erase b } })
    else c

/-- Every port with write data sends a beat. -/
def sendBeats (c : Ctl) : Ctl := ((c.mov.wd.map WdBeat.port).eraseDups).foldl (fun c p => sendBeat p c) c

/-- The response credits that Brural owes a stack or the host, which holds at most 255: one of each port in a port cycle (R106, R123). -/
def oweSa (c : Ctl) : Ctl :=
  c.mov.saOwed.foldl (fun c p =>
    let n := tabGet 0 c.mov.saCredit p.1
    if n < 255 then
      drive (.saCrd (if p.1 = 20 then .hpo else .sp p.1)) { c with mov := { c.mov with
        saOwed := tabPut 0 p.1 (p.2 - 1) c.mov.saOwed
        saCredit := tabPut 0 p.1 (n + 1) c.mov.saCredit } }
    else c) c

/-- The codec of zone `z` has work of a mover or of inbound HP before it (R256, R261). -/
def codecWork (c : Ctl) (z : Nat) : Bool :=
  c.mov.q.any (fun p => match p.2.run with
      | some r => r.mover.isSome && decide ((r.op = 7 ∨ r.op = 8) ∧ (if p.1 < 64 then p.1 / 4 else 2 * (p.1 - 64)) = z)
      | none => false)
    || (decide (z = 0) && c.port.reqs.any (fun r => decide (r.port = .hp ∧ r.op ≠ .zmap ∧ r.f.view ≠ 0 ∧ r.verdict = .serve) && !r.complete))

/-- Events that weigh port cycles, at the end of one (Table 13-20): movers busy, stacks paced and quiesced in it, and codecs that made work wait,
which is free (log 83). A stack that is HOT and quiesced counts as both, though quiesce takes
precedence of pacing (R322; DESIGN CHOICE, log 139). -/
def countPc (c : Ctl) : Ctl :=
  let c1 := c.mov.q.foldl (fun c p => match p.2.run with
    | some r => if r.mover.isSome then emit (evQueue 0x3A 0 p.1) c else c
    | none => c) (emit (evQ 0x0E 0) c)
  let c2 := (List.range 20).foldl (fun c s =>
    let c2 := if (pacedAt c s).isSome then emit (evQ 0x3E s) c else c
    if quiesced c s then emit (evQ 0x3F s) c2 else c2) c1
  ((List.range 16).filter (fun z => codecWork c z && Config.codecWaits c.pc z)).foldl (fun c z => emit (evZ 0x27 z) c) c2

/-- What a port cycle ends with while base logic has power: cut-offs and due deliveries, then ticks, units and the cycle count move on. -/
def cycleEvents (c : Ctl) : Ctl :=
  let c1 := if thymeRuns c then
      let a := (List.range 4).foldl (fun c g => holdCutoff g (fullRateHold g c)) c
      let b := (duePorts a).foldl (fun c p => deliver p c) a
      (List.range 4).foldl (fun c g => groupEdge g c) b
    else c
  let c2 := countPc c1
  sendBeats (oweSa (oweCredits (latchPaces { c2 with pc := c2.pc + 1 })))

/-- The end of a port cycle (log 2): its events, then the snapshot and clear of the counters (R505), and what can go on after it. The
outputs of the cycle before this step are gone; those that the step drives stand, and no cause has been raised in the new cycle (R501).
Without power nothing else happens (R41, R433). -/
def cycleEnd (c : Ctl) : Ctl :=
  let c0 := { c with edge := [], int := { c.int with raised := 0 } }
  if baseLogicOn c0 then pump (evcEdge (cycleEvents c0)) else c0

end Sys2Proof.Machine
end

