-- ==== Sys2Proof/Machine/Sorrel.lean ====
section
/-! DEFINITION. Sorrel: barriers, phases, waiters, faults, pre-emption, locks, and what its registers read (R337..R364). -/

namespace Sys2Proof.Machine

def barOf (c : Ctl) (n : Nat) : Barrier := tabGet Barrier.rest c.srl.bar n
def setBar (n : Nat) (b : Barrier) (c : Ctl) : Ctl := { c with srl := { c.srl with bar := tabPut Barrier.rest n b c.srl.bar } }

/-- Code of a freeze cause (Table 9-9). -/
def Freeze.code (f : Freeze) : Nat :=
  match f with
  | .none => 0
  | .disarmed => 1
  | .overflow => 2
  | .underflow => 3
  | .ownerReset => 4
  | .brk => 5

/-- Queue a delivery. -/
def pushRel (k : RelKind) (tok : Option Nat) (c : Ctl) : Ctl := { c with srl := { c.srl with rel := c.srl.rel ++ [⟨k, tok⟩] } }

/-- Send the release-invalidate to core `z` and give its token (R197). -/
def relInv (z : Nat) (c : Ctl) : Nat × Ctl :=
  let t := c.srl.tok + 1
  (t, queueInv z ⟨t, true, 0, 1, .release⟩ { c with srl := { c.srl with tok := t } })

/-- The core of a wait-table index, and whether the index lies in the save area (Table 9-11). -/
def wtCore (i : Nat) : Nat := i / 16
def wtSaved (i : Nat) : Bool := decide (8 ≤ i % 16)

/-- Release one core waiter (R345, R346, R354): a saved one records it, a waiting one is freed and its wake queued, after `tok`. -/
def releaseEntry (broken : Bool) (toks : Tab Nat) (c : Ctl) (p : Nat × Wt) : Ctl :=
  if wtSaved p.1 then { c with srl := { c.srl with wt := tabIns p.1 { p.2 with pend := some broken } c.srl.wt } }
  else pushRel (.wake (wtCore p.1) p.2.ctx broken) (tabFind toks (wtCore p.1)) { c with srl := { c.srl with wt := tabDel p.1 c.srl.wt } }

/-- Release the waiters of barrier `n`, all of them or those on one phase bit (R345); with `rinv` each woken core is invalidated first
(R197). -/
def releaseWaiters (n : Nat) (pb : Option Bool) (broken rinv : Bool) (c : Ctl) : Ctl :=
  let mine (b : Nat) (x : Bool) : Bool := decide (b = n) && (match pb with | none => true | some y => decide (x = y))
  let es := c.srl.wt.filter (fun p => mine p.2.bar p.2.pb && p.2.pend.isNone)
  let qs := c.srl.qw.filter (fun p => mine p.2.1 p.2.2)
  let cores := ((es.filter (fun p => !wtSaved p.1)).map (fun p => wtCore p.1)).eraseDups
  let (toks, c1) := if rinv && !broken then
      cores.foldl (fun (a : Tab Nat × Ctl) z => let (t, d) := relInv z a.2; (tabIns z t a.1, d)) ([], c)
    else ([], c)
  let c2 := es.foldl (releaseEntry broken toks) c1
  let c3 := qs.foldl (fun c p => pushRel (.queue p.1 broken) none { c with srl := { c.srl with qw := tabDel p.1 c.srl.qw } }) c2
  if broken then emit ⟨0x54, qs.length, 0, none, none, none⟩ (es.foldl (fun c p => emit (evZ 0x54 (wtCore p.1)) c) c3) else c3

/-- An event of Sorrel: it carries the zone of the core whose operation it is, if it is one (Table 13-20). -/
def evSy (src qual : Nat) (z : Option Nat) : Ev := ⟨src, 1, qual, z, none, none⟩

/-- The core of a signaller (Table 9-14): core ids lie below 16. -/
def whoCore (who : Nat) : Option Nat := if who < 16 then some who else none

/-- complete of R345, by an operation of core `z` or another signaller. -/
def barComplete (n : Nat) (z : Option Nat) (c : Ctl) : Ctl :=
  let b := barOf c n
  let done := b.ph % 2 = 1
  let c1 := setBar n { b with ph := (b.ph + 1) % 4, cur := b.nxt, nxt := 0 } c
  let c2 := emit (evSy 0x51 0 z) (releaseWaiters n (some done) false b.rinv c1)
  if b.relIrq then raiseInt 13 (raiseBit (srlRlat (n / 32)) (n % 32) c2) else c2

/-- Complete the current phase while its count reaches P. -/
def completeWhile (fuel n : Nat) (z : Option Nat) (c : Ctl) : Ctl :=
  match fuel with
  | 0 => c
  | k + 1 =>
    let b := barOf c n
    if !b.frozen && decide (b.cur = b.p) then completeWhile k n z (barComplete n z c) else c

/-- Freeze a barrier and release its waiters with BROKEN (R350, R351, R353); a frozen one stays as it is. `z`: the core whose operation it is.
Each freeze counts under source 0x53, by its cause, those by owner reset and by break among them; a write that disarms a barrier does not:
R372 says only 'faults, by cause' (DESIGN CHOICE, log 142). -/
def barFreeze (n : Nat) (f : Freeze) (z : Option Nat) (c : Ctl) : Ctl :=
  let b := barOf c n
  if b.frozen then c
  else emit (evSy 0x53 f.code z) (releaseWaiters n none true false (setBar n { b with frozen := true, cause := f } c))

/-- Set the last signaller. -/
def setLast (n who : Nat) (c : Ctl) : Ctl := setBar n { barOf c n with last := who } c

/-- fault of R345: freeze, and record in SRL_FAULT_ST unless a fault is recorded. -/
def barFault (n : Nat) (f : Freeze) (who : Nat) (c : Ctl) : Ctl :=
  let c1 := barFreeze n f (whoCore who) (setLast n who c)
  let v := reg c1 srlFaultSt
  raiseInt 12 (if bit v 31 then c1
    else setReg srlFaultSt (BitVec.ofNat 32 (2 ^ 31 + f.code <<< 28 + who <<< 16 + n)) c1)

/-- arrive of R345. -/
def barArrive (n who : Nat) (named : Bool) (pn : Nat) (c : Ctl) : SyStatus × Ctl :=
  let b := barOf c n
  if b.frozen then (.broken, emit (evSy 0x55 0 (whoCore who)) c)
  else if named = false ∨ pn = b.ph then (.ok, completeWhile 3 n (whoCore who) (setBar n { b with cur := b.cur + 1, last := who } c))
  else if pn = (b.ph + 1) % 4 then
    if b.nxt = b.p then (.broken, barFault n .overflow who c)
    else (.ok, completeWhile 3 n (whoCore who) (setBar n { b with nxt := b.nxt + 1, last := who } c))
  else (.broken, barFault n .overflow who c)

/-- retract of R345. -/
def barRetract (n who : Nat) (named : Bool) (pn : Nat) (c : Ctl) : SyStatus × Ctl :=
  let b := barOf c n
  if b.frozen then (.broken, c)
  else if named = false ∨ pn = b.ph then
    if b.cur = 0 then (.broken, barFault n .underflow who c) else (.ok, setBar n { b with cur := b.cur - 1, last := who } c)
  else if pn = (b.ph + 1) % 4 then
    if b.nxt = 0 then (.broken, barFault n .underflow who c) else (.ok, setBar n { b with nxt := b.nxt - 1, last := who } c)
  else (.broken, barFault n .underflow who c)

/-- A queue ARRIVE or a window arrival (R315, R327, R348): `code` qualifies the event. -/
def barSignal (n who code : Nat) (c : Ctl) : SyStatus × Ctl :=
  let (st, c1) := barArrive n who false 0 c
  (st, if (barOf c n).frozen then c1 else emit (evQ 0x50 code) c1)

/-- A free entry of core `z`'s wait table (R346). -/
def freeWt (c : Ctl) (z : Nat) : Option Nat := (List.range 8).find? (fun e => (tabFind c.srl.wt (16 * z + e)).isNone)

/-- The context holds an entry of core `z` (R344). -/
def ctxHeld (c : Ctl) (z ctx : Nat) : Bool := c.srl.wt.any (fun p => decide (wtCore p.1 = z ∧ p.2.ctx = ctx))

/-- A WAIT_FULL refusal (R347). -/
def noteFull (z : Nat) (c : Ctl) : Ctl := emit (evZ 0x52 z) (bumpSat (srlWfull z) 0 32 c)

/-- wait of R345 for a core context. -/
def barWait (n z ctx : Nat) (pb : Bool) (c : Ctl) : SyStatus × Ctl :=
  let b := barOf c n
  if b.frozen then (.broken, c)
  else if pb ≠ decide (b.ph % 2 = 1) then (.ok, c)
  else
    match freeWt c z with
    | none => (.waitFull, noteFull z c)
    | some e => (.waiting, { c with srl := { c.srl with wt := tabIns (16 * z + e) ⟨ctx, pb, n, none⟩ c.srl.wt } })

/-- arrive_wait of R345; one whose arrival completes the phase needs no entry and returns OK (R347). -/
def barArriveWait (n z ctx : Nat) (named : Bool) (pn : Nat) (c : Ctl) : SyStatus × Ctl :=
  let b := barOf c n
  if b.frozen then (.broken, emit (evSy 0x55 0 (some z)) c)
  else if named = true ∧ pn ≠ b.ph then (.broken, barFault n .overflow z c)
  else if b.p ≤ b.cur + 1 then (.ok, (barArrive n z false 0 c).2)
  else if (freeWt c z).isNone then (.waitFull, noteFull z c)
  else barWait n z ctx (decide (b.ph % 2 = 1)) (barArrive n z false 0 c).2

/-- Move the entries of core `z` between the wait table and the save area. -/
def moveWt (z : Nat) (f : Nat → Nat) (es : List (Nat × Wt)) (c : Ctl) : Ctl :=
  { c with srl := { c.srl with wt := es.foldl (fun t p => tabIns (16 * z + f (p.1 % 16)) p.2 (tabDel p.1 t)) c.srl.wt } }

/-- The entries of core `z` in the wait table, or in its save area. -/
def wtOf (c : Ctl) (z : Nat) (saved : Bool) : List (Nat × Wt) :=
  c.srl.wt.filter (fun p => decide (wtCore p.1 = z) && decide (wtSaved p.1 = saved))

/-- SAVE (R354, R355); one refused with WAIT_FULL counts nowhere (DESIGN CHOICE, log 152). -/
def sySave (z : Nat) (c : Ctl) : SyStatus × Ctl :=
  if (wtOf c z true).isEmpty then (.ok, emit (evZ 0x58 z) (moveWt z (fun e => e + 8) (wtOf c z false) c)) else (.waitFull, c)

/-- RESTORE (R354, R355): entries move back; a recorded release drives its wake, after the invalidation where rinv = 1. Where the barrier has
been armed anew since the release, its present rinv counts: R354 does not say whose does (DESIGN CHOICE, log 141). One refused with WAIT_FULL
counts nowhere (DESIGN CHOICE, log 152). -/
def syRestore (z : Nat) (c : Ctl) : SyStatus × Ctl :=
  let es := wtOf c z true
  if es.isEmpty then (.ok, emit (evZ 0x59 z) c)
  else if !(wtOf c z false).isEmpty then (.waitFull, c)
  else
    let c1 := moveWt z (fun e => e - 8) (es.filter (fun p => p.2.pend.isNone)) c
    let c2 := (es.filter (fun p => p.2.pend.isSome)).foldl (fun c p =>
      let broken := p.2.pend.getD false
      let c0 := { c with srl := { c.srl with wt := tabDel p.1 c.srl.wt } }
      if !broken && (barOf c p.2.bar).rinv then
        let (t, d) := relInv z c0
        pushRel (.wake z p.2.ctx broken) (some t) d
      else pushRel (.wake z p.2.ctx broken) none c0) c1
    (.ok, emit (evZ 0x59 z) c2)

/-- A claim by `owner` (R362): 0 when granted, else the owner id plus 1. -/
def lockClaim (i owner : Nat) (c : Ctl) : Nat × Ctl :=
  let o := tabGet 0 c.srl.lock i
  if c.srl.dead then (o, c)
  else if o = 0 then (0, emit ⟨0x5A, 1, 0, if owner < 16 then some owner else none, none, none⟩
    { c with srl := { c.srl with lock := tabPut 0 i (owner + 1) c.srl.lock } })
  else (o, emit ⟨0x5B, 1, 0, if owner < 16 then some owner else none, none, none⟩ c)

/-- A release by `owner` (R363). -/
def lockFree (i owner : Nat) (c : Ctl) : Ctl :=
  if c.srl.dead then c
  else if tabGet 0 c.srl.lock i = owner + 1 then { c with srl := { c.srl with lock := tabPut 0 i 0 c.srl.lock } }
  else emit ⟨0x5C, 1, 0, if owner < 16 then some owner else none, none, none⟩ c

/-- Code of an operation on c_sy_op. -/
def SyKind.code (k : SyKind) : Nat :=
  match k with
  | .arrive => 0
  | .wait => 1
  | .arriveWait => 2
  | .retract => 3
  | .save => 4
  | .restore => 5
  | .claim => 6
  | .free => 7

/-- Apply an operation of core `z` (R343..R345, R354, R362, R363): status, result of CLAIM, and the state. Source 0x50 counts an operation that
freezes its barrier, and none on a barrier that is frozen already (DESIGN CHOICE, log 152). -/
def syApply (z : Nat) (k : SyKind) (f : SyFields) (c : Ctl) : SyStatus × Nat × Ctl :=
  let badBar := decide (831 < f.obj)
  let badCtx := ctxHeld c z f.ctx
  let frozen0 := [SyKind.arrive, .wait, .arriveWait, .retract].contains k && (barOf c f.obj).frozen
  let (st, v, c1) : SyStatus × Nat × Ctl := match k with
    | .arrive => if badBar then (.unsupported, 0, c) else let (s, d) := barArrive f.obj z f.named f.ph c; (s, 0, d)
    | .retract => if badBar then (.unsupported, 0, c) else let (s, d) := barRetract f.obj z f.named f.ph c; (s, 0, d)
    | .wait => if badBar || badCtx then (.unsupported, 0, c) else let (s, d) := barWait f.obj z f.ctx (f.ph.testBit 0) c; (s, 0, d)
    | .arriveWait =>
      if badBar || badCtx then (.unsupported, 0, c) else let (s, d) := barArriveWait f.obj z f.ctx f.named f.ph c; (s, 0, d)
    | .save => let (s, d) := sySave z c; (s, 0, d)
    | .restore => let (s, d) := syRestore z c; (s, 0, d)
    | .claim => if 63 < f.obj then (.unsupported, 0, c) else let (v, d) := lockClaim f.obj z c; (.ok, v, d)
    | .free => if 63 < f.obj then (.unsupported, 0, c) else (.ok, 0, lockFree f.obj z c)
  (st, v, if st = .unsupported ∨ st = .waitFull ∨ frozen0 = true then c1 else emit { evZ 0x50 z with qual := k.code } c1)

/-- Answer an operation (R341): at once when no earlier answer of the core waits, none has been driven in this pc, and no invalidation is
owed. -/
def syAnswer (z seq : Nat) (st : SyStatus) (v : Nat) (tok : Option Nat) (c : Ctl) : Ctl :=
  let waits := c.srl.rel.any (fun r => match r.kind with | .answer y _ _ _ => decide (y = z) | _ => false)
  if waits || tok.isSome || srDriven c z then pushRel (.answer z seq st v) tok c else drive (.sr z seq st v) c

/-- Apply and answer the operation of core `z` (R197, R341): a WAIT that returns OK at once on a barrier with rinv = 1 is answered
after the invalidation. -/
def syRun (z : Nat) (o : SyOp) (c : Ctl) : Ctl :=
  let rinv := (o.kind = .wait ∨ o.kind = .arriveWait) ∧ (barOf c o.f.obj).rinv = true
  let (st, v, c1) := syApply z o.kind o.f c
  if rinv ∧ st = .ok then
    let (t, c2) := relInv z c1
    syAnswer z (o.f.seq % 256) st v (some t) c2
  else syAnswer z (o.f.seq % 256) st v none c1

/-- Sorrel applies no operation from step 3 of SLEEP entry on (Table 11-2), in SLEEP, or until isolation is released. -/
def sorrelStill (c : Ctl) : Bool :=
  bit (reg c pwrSt) 31 || (match c.pwr.entry with | some e => decide (3 ≤ e.step) | none => false)

/-- Sorrel applies the registered operations of core `z` in order, as long as no earlier end is unrecorded and Sorrel is not in reset (R189,
R342). -/
def sorrelDrain (fuel z : Nat) (c : Ctl) : Ctl :=
  match fuel with
  | 0 => c
  | k + 1 =>
    if c.srl.dead || domInReset c 18 || sorrelStill c then c
    else
      let x := chvOf c z
      let next := x.sy.foldl (fun m o => match o.reg, m with
        | none, _ => m
        | some _, none => some o
        | some n, some (p : SyOp) => if n < p.reg.getD 0 then some o else m) none
      match next with
      | none => c
      | some o =>
        if endPending c z (o.reg.getD 0) then c
        else sorrelDrain k z (syRun z o (setChv z { x with sy := x.sy.filter (fun y => decide (y.reg ≠ o.reg)) } c))

/-- Operations of core `z` taken and not answered (R341). -/
def syTaken (c : Ctl) (z : Nat) : Nat :=
  (chvOf c z).sy.length + (c.srl.rel.filter (fun r => match r.kind with | .answer y _ _ _ => decide (y = z) | _ => false)).length

/-- The interfaces of core `z` take operations: the device is open and its zone released (R87, R341). -/
def coreOpen (c : Ctl) (z : Nat) : Bool :=
  deviceOpen c && domReleased c z && !c.pin.rstAck.contains z && !devFenced c

/-- c_sy_rdy (R341). -/
def syReady (c : Ctl) (z : Nat) : Bool := coreOpen c z && domReleased c 18 && !c.srl.dead && decide (z < 16) && decide (syTaken c z < 16)

/-- An operation is taken, registered and, when its turn has come, applied and answered (R341, R342). -/
def syTake (z : Nat) (k : SyKind) (f : SyFields) (c : Ctl) : Ctl :=
  if syReady c z then
    let x := chvOf c z
    let c1 := chervilRegister z (setChv z { x with sy := x.sy ++ [⟨k, f, none, c.pc⟩] } c)
    sorrelDrain 16 z c1
  else c

/-- Arm a barrier (R339). -/
def barArm (n : Nat) (v : Word) (c : Ctl) : Ctl :=
  let c1 := releaseWaiters n none true false c
  let p := bits v 0 8
  setBar n ⟨p, 0, 0, 0, decide (p = 0), if p = 0 then .disarmed else .none, 0x3FF, bit v 16, bit v 17⟩ c1

/-- SRL_CFG.dbg in effect (R357, R358): 0 off, 1 observe, 2 force. -/
def dbgView (c : Ctl) : Nat :=
  let d := bits (reg c srlCfg) 0 2
  if d = 2 ∧ forceOn c = false then 1 else d

/-- The set part of a forced write (R359): whether it was refused, and the state. -/
def forceSet (n : Nat) (v : Word) (c : Ctl) : Bool × Ctl :=
  let b := barOf c n
  let cur := bits v 0 8
  let nxt := bits v 8 8
  if b.frozen ∨ b.p < cur ∨ b.p < nxt then (true, c)
  else
    let c1 := setBar n { b with cur := cur, nxt := nxt } c
    (false, if cur = b.p then barComplete n none c1 else c1)

/-- The rel part of a forced write (R359). -/
def forceRel (n : Nat) (c : Ctl) : Ctl := if (barOf c n).frozen then c else barComplete n none c

/-- A write to SRL_BAR_FORCE[n] (R353, R356, R358, R359, Table 9-15). Where the next phase's count is P already, that phase completes too,
so that cur stays below P between operations (Table 9-1, log 84). -/
def forceWrite (n : Nat) (v : Word) (c : Ctl) : Ctl :=
  if c.srl.dead then c
  else if bit v 29 then barFreeze n .brk none c
  else if dbgView c ≠ 2 then emit ⟨0x56, 1, 0, none, none, none⟩ c
  else if !bit v 31 && !bit v 30 then c
  else
    let (refused, c1) := if bit v 31 then forceSet n v c else (false, c)
    if refused then c1 else completeWhile 1 n none (if bit v 30 then forceRel n c1 else c1)

/-- SRL_BAR_CFG[n] (Table 9-12). -/
def barCfgWord (c : Ctl) (n : Nat) : Word :=
  let b := barOf c n
  BitVec.ofNat 32 ((if b.relIrq then 2 ^ 17 else 0) + (if b.rinv then 2 ^ 16 else 0) + (if n < 768 then n / 48 else 0x1F) <<< 8 + b.p)

/-- SRL_BAR_ST[n] (Table 9-13). -/
def barStWord (c : Ctl) (n : Nat) : Word :=
  let b := barOf c n
  let open_ := dbgView c ≠ 0
  BitVec.ofNat 32 (b.cause.code <<< 24 + (if b.frozen then 2 ^ 20 else 0) + b.ph <<< 16 + (if open_ then b.nxt <<< 8 + b.cur else 0))

/-- Bits of a list of numbers. -/
def maskOf (l : List Nat) : Nat := l.foldl (fun a i => a ||| 2 ^ i) 0

/-- SRL_BAR_WC[n], SRL_BAR_WQ[n][j], SRL_BAR_LAST[n] (Table 9-14). -/
def barWcWord (c : Ctl) (n : Nat) : Word :=
  if dbgView c = 0 then 0
  else
    let es := c.srl.wt.filter (fun p => decide (p.2.bar = n))
    BitVec.ofNat 32 (maskOf ((es.filter (fun p => wtSaved p.1)).map (fun p => wtCore p.1)) <<< 16
      + maskOf ((es.filter (fun p => !wtSaved p.1)).map (fun p => wtCore p.1)))
def barWqWord (c : Ctl) (n j : Nat) : Word :=
  if dbgView c = 0 then 0
  else BitVec.ofNat 32 (maskOf ((c.srl.qw.filter (fun p => decide (p.2.1 = n ∧ p.1 / 32 = j))).map (fun p => p.1 % 32)))
def barLastWord (c : Ctl) (n : Nat) : Word := if dbgView c = 0 then 0 else BitVec.ofNat 32 (barOf c n).last

/-- SRL_WT[z][e] (Table 9-11). -/
def wtWord (c : Ctl) (z e : Nat) : Word :=
  if dbgView c = 0 then 0
  else
    match tabFind c.srl.wt (16 * z + e) with
    | none => 0
    | some w => BitVec.ofNat 32 (2 ^ 31 + (if w.pend.isSome then 2 ^ 30 else 0) + (if w.pend = some true then 2 ^ 29 else 0)
        + w.ctx <<< 17 + (if w.pb then 2 ^ 16 else 0) + w.bar)

/-- Mailbox channels. -/
def chanOf (c : Ctl) (k : Nat) : Chan := tabGet Chan.rest c.srl.mbx k
def setChan (k : Nat) (v : Chan) (c : Ctl) : Ctl := { c with srl := { c.srl with mbx := tabPut Chan.rest k v c.srl.mbx } }

/-- MBX_ST[k] (Table 9-17). -/
def mbxStWord (c : Ctl) (k : Nat) : Word :=
  let x := chanOf c k
  BitVec.ofNat 32 ((if x.ovf then 4 else 0) + (if x.ackv then 2 else 0) + (if x.full then 1 else 0))

/-- A lock freed by a reset is counted as orphaned (R364). -/
def freeLocks (f : Nat → Bool) (c : Ctl) : Ctl :=
  let ls := c.srl.lock.filter (fun p => f (p.2 - 1))
  emit ⟨0x5D, ls.length, 0, none, none, none⟩ { c with srl := { c.srl with lock := c.srl.lock.filter (fun p => !f (p.2 - 1)) } }

/-- The scrub of a region ends with its command, whose channel has been cleared (R368). -/
def dropRegion (f : Nat → Bool) (c : Ctl) : Ctl := { c with prt := { c.prt with region := c.prt.region.filter (fun x => !f x.chan) } }

/-- What a reset of zone `z` does to Sorrel (R351, R368): its channel loses full, ackv, ovf and the message; MBX_ACK stays. -/
def sorrelZoneReset (z : Nat) (c : Ctl) : Ctl :=
  if c.srl.dead then c
  else
    let c1 := (List.range 48).foldl (fun c i => barFreeze (48 * z + i) .ownerReset none c) c
    let x := chvOf c1 z
    let c2 := setChv z { x with sy := [] }
      { c1 with srl := { c1.srl with
          wt := c1.srl.wt.filter (fun p => decide (wtCore p.1 ≠ z))
          rel := c1.srl.rel.filter (fun r => match r.kind with
            | .wake y _ _ => decide (y ≠ z)
            | .answer y _ _ _ => decide (y ≠ z)
            | .queue _ _ => true) } }
    dropRegion (fun k => decide (k = 1 + z)) <| setChan (1 + z) { Chan.rest with ack := (chanOf c (1 + z)).ack } (freeLocks (fun o => decide (o = z)) c2)

/-- A reset of the Sorrel domain (R352, R364, R368): its state and registers return to reset, queue waits end with BROKEN, and wakes are
dropped; operations taken keep their answers (R341, log 85). -/
def sorrelReset (c : Ctl) : Ctl :=
  let qs := c.srl.qw
  let c1 := emit ⟨0x54, qs.length, 0, none, none, none⟩
    (dropRegion (fun _ => true) (freeLocks (fun _ => true) (resetRegs (rg 3 0) (rg 6 0) (fun o => decide (o = srlCfg)) c)))
  { c1 with srl :=
      ⟨[], [], [], (c1.srl.rel.filter (fun r => match r.kind with | .wake _ _ _ => false | _ => true))
        ++ qs.map (fun p => ⟨.queue p.1 true, none⟩), [], [], false, 0, none, c1.srl.tok⟩ }

end Sys2Proof.Machine
end

