-- ==== Sys2Proof/Machine/Hub.lean ====
section
/-! DEFINITION. The register hub: which accesses of MP and Acien it takes, registers in reset and their held writes, and the response
(R39, R46, R87, R127, R128, R427, R465). -/

namespace Sys2Proof.Machine

/-- The reset domain of the register at an offset, where that domain has a reset of its own (Table 12-7). -/
def regDomain (o : Nat) : Option Nat :=
  let i := (o - 0x100000) / 0x10000
  if i = 8 then some 16 else if i = 9 then some 17 else if i = 3 ∨ i = 4 ∨ i = 5 then some 18 else none

/-- The register is in reset (R128). -/
def regInReset (c : Ctl) (o : Nat) : Bool :=
  match regDomain o with
  | some d => domInReset c d
  | none => false

/-- What a register in reset reads (R12, R128): its reset value, and in a field that only the load writes the value that it keeps. -/
def resetRead (c : Ctl) (o : Nat) : Word :=
  (fieldsOf c.part o).foldl (fun a f => match f.acc with | .rwl => setBits a f.lo f.w (bits (reg c o) f.lo f.w) | _ => a) (resetWord c.part o)

/-- MP gives its response in the present port cycle (Table 3-9). -/
def mpAnswers (c : Ctl) : Bool := c.edge.any (fun e => match e with | .mpRs _ _ => true | _ => false)

/-- MP takes an access (R87, R127, R465): ports open, or no valid image, no earlier access waits, and none is answered in this cycle. -/
def mpOpen (c : Ctl) : Bool :=
  decide (c.dev.run = .running ∨ c.dev.run = .noImage) && decide (c.dev.hub = .idle) && !mpAnswers c

/-- The register lies in the PWR block, which MP reaches during SLEEP entry (Table 11-2). -/
def isPwrReg (o : Nat) : Bool := decide ((o - 0x100000) / 0x10000 = 12)

/-- The hub takes an access to the register at offset `o`; each is whole before the next one begins (R39). -/
def hubTakes (c : Ctl) (a : Agent) (o : Nat) : Bool :=
  match a with
  | .mp => mpOpen c && (c.pwr.entry.isNone || isPwrReg o)
  | .acien => acienRuns c && decide (c.dev.hub = .idle)

/-- The hub takes a write to the register at offset `o`: one of PWR_CTRL that comes at step 5 of SLEEP entry waits until isolation is released
(R429). -/
def hubTakesWrite (c : Ctl) (a : Agent) (o : Nat) : Bool :=
  hubTakes c a o && !(decide (o = pwrCtrl) && (match c.pwr.entry with | some e => decide (4 < e.step) | none => false))

/-- The core whose request, end, operation or message is wake source `index` of class 0 (R451). -/
def wakeCore (cls index : Nat) : Option Nat :=
  if cls ≠ 0 then none else if index < 80 then some (index / 5) else if 114 ≤ index ∧ index < 130 then some (index - 114) else none

/-- A wake event during SLEEP entry waits; the first one is recorded (R427, R451). What an isolated core presents is ignored (R473). -/
def noteWake (cls index : Nat) (c : Ctl) : Ctl :=
  match c.pwr.entry with
  | some e =>
    if e.wake.isNone ∧ e.step ≤ 4 ∧ (wakeCore cls index).any (isolated c) = false then
      { c with pwr := { c.pwr with entry := some { e with wake := some (cls, index) } } }
    else c
  | none => c

/-- The part of a write to a register in reset that is held (R128): its rw fields. -/
def rwPart (p : Part) (o : Nat) (v : Word) : Word :=
  (fieldsOf p o).foldl (fun a f => match f.acc with | .rw => setBits a f.lo f.w (bits v f.lo f.w) | _ => a) 0

/-- The register has an rw field. -/
def hasRw (p : Part) (o : Nat) : Bool := (fieldsOf p o).any (fun f => decide (f.acc = .rw))

/-- Hold a write to a register in reset (R128). -/
def holdWrite (a : Agent) (o : Nat) (v : Word) (c : Ctl) : Ctl :=
  if hasRw c.part o then { c with dev := { c.dev with heldWrites := c.dev.heldWrites ++ [(a, o, rwPart c.part o v)] } } else c

/-- The response to a write: on MP, unless the write waits for its effect. -/
def writeDone (a : Agent) (c : Ctl) : Ctl :=
  match a with
  | .mp => if c.dev.hub = .idle then drive (.mpRs .ok 0) c else c
  | .acien => c

/-- A write through the hub with effect `f`. -/
def hubWrite (a : Agent) (o : Nat) (v : Word) (f : State → State) (s : State) : State :=
  if hubTakesWrite s.ctl a o then
    if regInReset s.ctl o then s.onCtl (fun c => writeDone a (holdWrite a o v c)) else (f s).onCtl (writeDone a)
  else s.onCtl (fun c => match a with | .mp => if mpOpen c then noteWake 3 5 c else c | .acien => c)

/-- A write through the hub that changes no memory. -/
def hubCtl (a : Agent) (o : Nat) (v : Word) (f : Ctl → Ctl) (c : Ctl) : Ctl :=
  if hubTakes c a o then
    if regInReset c o then writeDone a (holdWrite a o v c) else writeDone a (f c)
  else match a with | .mp => if mpOpen c then noteWake 3 5 c else c | .acien => c

/-- The write that waited completes (R128), with a response where MP made it. -/
def hubComplete (c : Ctl) : Ctl :=
  let c1 := { c with dev := { c.dev with hub := .idle } }
  if c.dev.hub = .region .acien then c1 else drive (.mpRs .ok 0) c1

end Sys2Proof.Machine
end

