-- ==== Sys2Proof/Machine/Banks.lean ====
section
/-! DEFINITION. Bank groups, their policies and the moves of banks between ON, RET and OFF (R403, R414..R421). -/

namespace Sys2Proof.Machine

/-- The policy field of a bank group: zone, tier, near or spread pool (Table 11-11): 0 ON, 1 AUTO, 2 RET, 3 OFF. -/
def policyOf (c : Ctl) (z t : Nat) (near : Bool) : Nat := bits (reg c (pwrGrp z)) (4 * t + (if near then 2 else 0)) 2

/-- The group of a bank: zone, tier, near pool (R415). Spare and retired slices have none; a carved bank is in its zone's near group of T0. -/
def groupOfBank (c : Ctl) (p b : Nat) : Option (Nat × Nat × Bool) :=
  (logicalOf c p).map (fun s => if isCarved (s / 8) b then (s / 8, 0, true) else (s / 8, b / 16, decide (kOf c (b / 16) ≤ b % 16)))

/-- The policy of a bank's group; a bank without a group has policy ON. -/
def bankPolicy (c : Ctl) (p b : Nat) : Nat :=
  match groupOfBank c p b with
  | some (z, t, near) => policyOf c z t near
  | none => 0

/-- The bank lies in a zone that IDLE retains (R420). -/
def idleBank (c : Ctl) (p : Nat) : Bool :=
  c.pwr.idleState && (match logicalOf c p with | some s => bit (reg c pwrCtrl) (16 + s / 8) | none => false)

/-- The bank goes to RET when it has been idle (R415, R420). -/
def idlesToRet (c : Ctl) (p b : Nat) : Bool :=
  decide (bankPolicy c p b = 1 ∨ bankPolicy c p b = 2) || (idleBank c p && decide (bankPolicy c p b ≠ 3))

/-- The line at `ta` lies in bank `key` now. -/
def inBank (c : Ctl) (key ta : Nat) : Bool :=
  match place c ta with
  | some l => decide (bankKey (redirect c l.s l.x) l.b = key)
  | none => false

/-- The canonical lines that a request touches: those that it asks for, and their side lines in a view stream (R170, R231). -/
def reqLines (c : Ctl) (r : Req) : List Nat :=
  let ts := (reqTas c r).map (canonTa r.remap)
  if r.op = .zmap ∨ r.f.view = 0 then ts else ts ++ ts.filterMap (fun t => (sideOf (seenBy c r.id) t).map (fun x => x.1))

/-- An access accepted before the move was ordered is still to be served in its bank (R418). -/
def moveHeld (c : Ctl) (m : Move) : Bool :=
  c.port.reqs.any (fun r => decide (r.id < m.serial ∧ r.verdict = .serve) && !r.complete && (reqLines c r).any (inBank c m.key))
    || c.port.ops.any (fun o => decide (o.serial < m.serial) && o.lines.any (inBank c m.key))
    || c.port.parity.any (fun j => j.op.lines.any (inBank c m.key) || inBank c m.key j.parityTa)
    || c.chv.any (fun p => p.2.wc.any (fun e => inBank c m.key e.ta))

/-- The slice whose bank moves with the same bank of slice `p`: the other one of a migration's two (R403). -/
def twin (c : Ctl) (p : Nat) : Option Nat :=
  let m := migOf c (p / 9)
  if m.built = false then none
  else if committed c m.slice = p then some m.spare
  else if m.spare = p then some (committed c m.slice)
  else none

/-- Slice `p` and its twin. -/
def withTwin (c : Ctl) (p : Nat) : List Nat := p :: (twin c p).toList

/-- Ask a bank in RET to wake. -/
def askBank (p b : Nat) (c : Ctl) : Ctl :=
  let x := bankOf c p b
  if x.st = .ret then setBank p b { x with want := true } c else c

/-- One ordered move, as far as it can go now: a wake takes its own time (R416, R421). -/
def settleOne (s : State) (m : Move) : State :=
  let p := m.key / 48
  let b := m.key % 48
  if moveHeld s.ctl m then s
  else
    match (bankOf s.ctl p b).st, m.dst with
    | .waking, _ => s
    | .ret, .on => s
    | _, d => bankTo p b d s

/-- The bank has reached the state of its move, or its slice has been retired. -/
def moveDone (c : Ctl) (m : Move) : Bool :=
  decide ((bankOf c (m.key / 48) (m.key % 48)).st = m.dst) || !sliceUsed c (m.key / 48)

/-- Moves that have ended leave; with the last of those that the waiting MP write ordered it completes (R418, R420). -/
def reapMoves (c : Ctl) : Ctl :=
  let ms := c.pwr.moves.filter (fun m => !moveDone c m)
  let c1 := { c with pwr := { c.pwr with moves := ms } }
  if c1.dev.hub = .power ∧ ms.any Move.waited = false then hubComplete c1 else c1

/-- Every ordered move goes as far as it can. -/
def settle (s : State) : State :=
  if s.ctl.pwr.moves.isEmpty then s else (s.ctl.pwr.moves.foldl settleOne s).onCtl reapMoves

/-- Order moves, for which an MP write waits or not; a later order for a bank replaces an earlier one. -/
def orderMoves (waited : Bool) (ms : List (Nat × BankSt)) (c : Ctl) : Ctl :=
  let n := c.port.serial
  let old := c.pwr.moves.filter (fun m => !ms.any (fun x => decide (x.1 = m.key)))
  { c with pwr := { c.pwr with moves := old ++ ms.map (fun x => ⟨x.1, x.2, n, waited⟩) } }

/-- A pending redirect table that cannot be read is rebuilt at the next lookup, and an event is captured (R387). -/
def healPending (z : Nat) (c : Ctl) : Ctl :=
  if c.prt.pendingBad.contains z then
    capture (capOf c 0x0E (9 * z + 8) 0 0 0 0 0 (migOf c z).slice)
      { c with prt := { c.prt with pendingBad := c.prt.pendingBad.filter (fun y => decide (y ≠ z)) } }
  else c

end Sys2Proof.Machine
end

