-- ==== Sys2Proof/Machine/Spine.lean ====
section
/-! DEFINITION. The way of an access to its slice: the arbiter at the output of each port ring, and the arbiters of the spine's links into each
zone, each with its queue, its grants and ageing (R29, R30, R32, R111..R113, R541). -/

namespace Sys2Proof.Machine

/-- The port ring whose output an access passes; none for what enters the spine at an edge station (R25, R541). -/
def ringOf (c : Ctl) (o : LineOp) : Option Nat :=
  match o.owner with
  | .req id _ => (findReq c id).bind (fun r => portCore r.port)
  | .wc z _ => some z
  | _ => none

/-- The queue of an access in its port ring: that of its port, which it leaves in acceptance order (R113), or the flushes of the write-combining
buffer. -/
def ringQueue (c : Ctl) (o : LineOp) : Nat :=
  match o.owner with
  | .req id _ => match findReq c id with | some r => portIndex r.port | none => 0
  | _ => 255

/-- The spine link into the zone of its slice that an access passes, two for each zone: the main channel and the far one (R30, R32, R541); a near
access of the owning core passes none (R29), and none of Acien's that stays in zone 0, whose redirect stage its private path enters (R38). -/
def linkInto (c : Ctl) (o : LineOp) : Option Nat :=
  (opSlice c o).bind (fun p => match ringOf c o with
    | none => if o.owner = .acien ∧ p / 9 = 0 then none else some (2 * (p / 9))
    | some z => match addrKind c z o.ta with
      | some .near => none
      | some .far => some (2 * (p / 9) + 1)
      | _ => some (2 * (p / 9)))

/-- An access that waits at an arbiter, and how many grants the arbiter had made when it reached it. -/
structure Waiter where
  since : Nat
  op : LineOp
deriving DecidableEq, Repr

/-- Effective QoS at an arbiter that has made `k` grants (R111, R112). -/
def Waiter.qos (c : Ctl) (k : Nat) (w : Waiter) : Nat :=
  if bit (reg c brlCfg) 31 then min 15 (w.op.qos + (k - w.since) / 256) else min 15 w.op.qos

/-- `a` is granted before `b`, which stands behind it in the list: the higher effective QoS, then the earlier arrival (R111). -/
def Waiter.before (c : Ctl) (k : Nat) (a b : Waiter) : Bool :=
  decide (b.qos c k < a.qos c k) || (decide (a.qos c k = b.qos c k) && decide (a.since ≤ b.since))

/-- What an arbiter grants of those that wait: the first of each queue alone can be granted (R111, R113). -/
def arbiterPick (c : Ctl) (queue : LineOp → Nat) (k : Nat) (ws : List Waiter) : Option Waiter :=
  ws.foldl (fun m w =>
    if (ws.find? (fun x => decide (queue x.op = queue w.op))) ≠ some w then m
    else match m with
      | none => some w
      | some x => if x.before c k w then some x else some w) none

/-- The order in which an arbiter that has made `k` grants grants those that wait, at most `n` of them; the next of a queue reaches it as the one
before it leaves. -/
def arbiterOrder (c : Ctl) (queue : LineOp → Nat) (n k : Nat) (ws : List Waiter) : List LineOp :=
  match n with
  | 0 => []
  | m + 1 =>
    match arbiterPick c queue k ws with
    | none => []
    | some w =>
      w.op :: arbiterOrder c queue m (k + 1)
        ((ws.erase w).map (fun x => if queue x.op = queue w.op then { x with since := k + 1 } else x))

/-- An arbiter grants the accesses `os`, which have reached it together. -/
def arbitrate (c : Ctl) (queue : LineOp → Nat) (os : List LineOp) : List LineOp :=
  arbiterOrder c queue os.length 0 (os.map (fun o => ⟨0, o⟩))

/-- The accesses that have not reached their slices, in the order in which the arbiters on the way let them through: the outputs of the port
rings, then the spine's links; a near one meets the first alone. -/
def wayOrder (c : Ctl) (os : List LineOp) : List LineOp :=
  let ring := (List.range 16).flatMap (fun z => arbitrate c (ringQueue c) (os.filter (fun o => decide (ringOf c o = some z))))
    ++ os.filter (fun o => (ringOf c o).isNone)
  ring.filter (fun o => (linkInto c o).isNone)
    ++ (List.range 32).flatMap (fun l => arbitrate c LineOp.serial (ring.filter (fun o => decide (linkInto c o = some l))))

/-- The accesses on their way reach their slices (R111): it takes no time in the model, and happens as a slice's arbiter is asked for its next
grant (DESIGN CHOICE, log 114). -/
def toSlices (c : Ctl) : Ctl :=
  match c.port.ops.filter (fun o => !o.here) with
  | [] => c
  | os =>
    let way := wayOrder c os
    { c with port := { c.port with
        serial := c.port.serial + way.length
        ops := c.port.ops.filter LineOp.here
          ++ way.zipIdx.map (fun x => { x.1 with here := true, came := c.port.serial + x.2 }) } }

end Sys2Proof.Machine
end

