-- ==== Sys2Proof/Machine/Access.lean ====
section
/-! DEFINITION. The commands of the data ports, the slices, Thyme, Chervil and Sorrel's core interface (chapters 03, 04, 05, 09). -/

namespace Sys2Proof.Machine

/-- The outcome of a command. -/
abbrev Ans := Host.Outcome State Fault Refusal

/-- The outcome of a command that touches no memory. -/
def nextCtl (f : Ctl → Ctl) (s : State) : Ans := .next (s.onCtl f)

/-- The port rings release what the step has freed (R113). -/
def pumped (s : State) : State := s.onCtl pump

/-- What follows the service of an access at slice `p`: a broken pending table is rebuilt, bank moves that waited for the access happen
(R387, R418), and the port rings release what is free. -/
def served (p : Nat) (s : State) : State := pumped (settle (s.onCtl (healPending (p / 9))))

/-- A request presented on a port: it is accepted, or it waits, turned away by Lovage or not, and wakes a SLEEP entry (R84, R85, R427, R439). -/
def present (p : Port) (op : RqOp) (f : RqFields) (c : Ctl) : Ctl :=
  if rqReady c p && lovAdmits c p op f then pump (acceptReq p op f c)
  else noteWake 0 (portIndex p) (if rqOpen c p then lovTurnedAway (lovSource c p) c else c)

/-- READ (R102). -/
def execRead (p : Port) (f : RqFields) (s : State) : Ans :=
  nextCtl (present p .read f) s

/-- WRITE (R101). -/
def execWrite (p : Port) (f : RqFields) (s : State) : Ans :=
  nextCtl (present p .write f) s

/-- ZMAP (R270). -/
def execZmap (p : Port) (f : RqFields) (s : State) : Ans :=
  nextCtl (present p .zmap f) s

/-- The oldest accepted write of a port that awaits data (R98). -/
def awaiting (c : Ctl) (p : Port) : Option Req :=
  c.port.reqs.find? (fun r => decide (r.port = p ∧ r.beatsIn < r.dataBeats))

/-- A data beat of an accepted write is taken (R99, R473): the port's zone is neither in reset nor clamped, and sg_hold is 0 on a fixed-lag
port. A port closed for SLEEP entry still takes the beats of accepted writes (Table 11-2). -/
def wdReady (c : Ctl) (p : Port) : Bool :=
  decide (c.dev.run = .running) && (match portCore p with | none => true | some z => !domInReset c z && !isolated c z)
    && (if fixedLag c p then match groupOf c p with | some g => !(grpOf c g).active | none => true else true)

/-- The lines of a data beat, padded to the beat's positions; on HP one half line. -/
def beatData (p : Port) (lines : List Line) (poison : List Bool) : List (Line × Bool) :=
  (List.range (max 1 (lpb p))).map (fun i =>
    ((List.range (if lpb p = 0 then 32 else 64)).map (fun k => (lines.getD i []).getD k 0), poison.getD i false))

/-- WRITE_DATA_BEAT (R98..R100). -/
def execWriteDataBeat (p : Port) (lines : List Line) (poison : List Bool) (s : State) : Ans :=
  nextCtl (fun c =>
    match awaiting c p with
    | none => c
    | some r =>
      if wdReady c p then
        pump (setReq { r with beatsIn := r.beatsIn + 1,
                              wdata := if r.verdict = .serve then r.wdata ++ beatData p lines poison else [] } c)
      else c) s

/-- The port takes response credits: it is open, or it is closed for SLEEP entry and still gives the responses of what it has accepted
(R106, Table 11-2). -/
def takesCredit (c : Ctl) (p : Port) : Bool := portOpen { c with pwr := { c.pwr with entry := none } } p

/-- RESPONSE_CREDIT (R106): ignored on a fixed-lag port and on one that gives no responses; beyond 255 it is discarded and counted. -/
def execResponseCredit (p : Port) (s : State) : Ans :=
  nextCtl (fun c =>
    let n := tabGet 0 c.port.credit (portIndex p)
    if fixedLag c p || !takesCredit c p then c
    else if n < 255 then { c with port := { c.port with credit := tabPut 0 (portIndex p) (n + 1) c.port.credit } }
    else emit (evPort 0x05 p) c) s

/-- An earlier request of the port with the same tag is not answered (R107); on a fixed-lag port a write waits for earlier writes alone. -/
def sameTagFirst (c : Ctl) (r : Req) : Bool :=
  c.port.reqs.any (fun x => decide (x.port = r.port ∧ x.id < r.id ∧ x.f.tag = r.f.tag) && !x.discard && !x.answeredAll
    && !(x.onRs && fixedLag c r.port))

/-- A response beat, or a write response, has been driven on the port in the present pc (R101, R102). -/
def rsDriven (c : Ctl) (p : Port) : Bool := c.edge.any (fun e => match e with | .rs q _ _ _ _ _ _ => decide (q = portIndex p) | _ => false)
def wrDriven (c : Ctl) (p : Port) : Bool := c.edge.any (fun e => match e with | .wr q _ _ _ => decide (q = portIndex p) | _ => false)

/-- ELASTIC_RESPONSE_BEAT (R106, R107), at most one in a pc; the beats of a request that a fence discards are not driven (R468). -/
def execElasticResponseBeat (p : Port) (id : Nat) (s : State) : Ans :=
  nextCtl (fun c =>
    let n := tabGet 0 c.port.credit (portIndex p)
    match findReq c id with
    | none => c
    | some r =>
      if r.discard = true then (if r.port = p ∧ r.complete = true then pump (reap (setReq { r with out := r.beats } c)) else c)
      else if r.port = p ∧ fixedLag c p = false ∧ r.onRs = true ∧ r.released = true ∧ r.out < r.beats ∧ 0 < n ∧ beatReady c r r.out = true
          ∧ sameTagFirst c r = false ∧ rsDriven c p = false then
        pump (beatOut r { c with port := { c.port with credit := tabPut 0 (portIndex p) (n - 1) c.port.credit } })
      else c) s

/-- FIXED_LAG_DELIVERY (R109). -/
def execFixedLagDelivery (p : Port) (s : State) : Ans := nextCtl (fun c => pump (deliver p c)) s

/-- WRITE_RESPONSE (R101, R105, R107, R120), at most one in a pc; none is driven for a write that a fence discards (R468). -/
def execWriteResponse (p : Port) (id : Nat) (s : State) : Ans :=
  nextCtl (fun c =>
    match findReq c id with
    | none => c
    | some r =>
      if r.port = p ∧ r.op = .write ∧ r.onRs = false ∧ r.answered = false ∧ r.dataBeats ≤ r.beatsIn
          ∧ (r.verdict ≠ .serve ∨ r.complete = true) then
        let busy := privPort p && r.res.any (fun x => x.2.busy)
        if r.discard then pump (reap (setReq { r with answered := true } c))
        else if wrDriven c p || sameTagFirst c r then c else
        let c1 := drive (.wr (portIndex p) r.f.tag r.writeStatus busy) (setReq { r with answered := true } c)
        let c2 := if r.verdict = .fenced then emit (evPort 0x0A p) c1 else c1
        reap (if busy then emit (evPort 0x07 p) c2 else c2)
      else c) s

/-- The access that meets `a` among those that wait: of a write and a read that are not both privileged, the read (R118); else the next in grant
order. -/
def partner (c : Ctl) (a : LineOp) (os : List LineOp) : Option LineOp :=
  let ms := os.filter (meets a)
  match if a.acc.isWrite then firstGranted c (ms.filter (fun b => !b.acc.isWrite && !(a.priv && b.priv))) else none with
  | some b => some b
  | none => firstGranted c ms

/-- The slice controller of physical slice `p` grants access `a` and serves it (R16, R111). -/
def grantOp (p : Nat) (a : LineOp) (up : Upset) (s : State) : State := served p (serveOp a up (s.onCtl (ageOthers p (some a) none)))

/-- A read that does not wait for the guarded write that it meets, both being privileged, has undefined data and busy, as decided second
(R119). -/
def asPassing (s : State) (a : LineOp) : LineOp := if passesHold s.ctl a then { a with busy := true, undef := true } else a

/-- Replace an access that waits. -/
def State.swapOp (o o' : LineOp) (s : State) : State := s.onCtl (fun c => { c with port := { c.port with ops := replaceOp o o' c.port.ops } })

/-- The waiting accesses `ms` meet access `a`, which is decided first: each of them, and `a` for all of them, carries what R119 gives the two. -/
def meetAll (a : LineOp) (ms : List LineOp) (s : State) : LineOp × State :=
  let a' := ms.foldl (fun x b => (meetFlags x b).1) a
  (a', ms.foldl (fun t b => t.swapOp b (meetFlags a b).2) (s.swapOp a a'))

/-- The slice controller of physical slice `p` grants one access and serves it; with `meeting` the accesses waiting
on its line meet it (R117..R119). With nothing to serve, the waiting accesses are marked; and where a background access ranks first, the
grant is that one's (R111), which SCRUB_ACCESS or MIGRATION_COPY_LINE carries out. -/
def sliceAccess (p : Nat) (meeting : Bool) (up : Upset) (s : State) : State :=
  let (pick, passed) := pickAt s p
  let s1 := s.onCtl (fun c => passed.foldl (fun c o => markWait s o c) c)
  match pick with
  | none => pumped s1
  | some a =>
    if yields s p a then pumped s1
    else
      let rest := (waitingAt s p).filter (fun x => decide (x ≠ a) && !passed.contains x)
      match if meeting then partner s.ctl a rest else none with
      | none => grantOp p (asPassing s a) up (s1.swapOp a (asPassing s a))
      | some b =>
        if !(a.priv && b.priv) && a.acc.isWrite && !b.acc.isWrite && decide (opAvail s b = .ready) then grantOp p b up s1
        else
          let (a', s2) := meetAll (asPassing s a) (rest.filter (meets a)) (s1.swapOp a (asPassing s a))
          grantOp p a' up s2

/-- SLICE_LINE_ACCESS (R16): the arbiters on the way let through what waits at them, and the slice controller grants among what has reached it
(R111). -/
def execSliceLineAccess (p : Nat) (meeting : Bool) (up : Upset) (s : State) : Ans := .next (sliceAccess p meeting up (s.onCtl toSlices))

/-- Replace the job at an index by nothing. -/
def dropJob (k : Nat) (c : Ctl) : Ctl := { c with port := { c.port with parity := c.port.parity.eraseIdx k } }

/-- The lines that the end of guarded write `j` writes beside its own: its parity line, and a side line with its parity line (R231, R379). -/
def ParityJob.others (j : ParityJob) : List Nat :=
  match j.op.acc with
  | .unitWrite _ _ side _ _ => [j.parityTa, side, Machine.parityTa side]
  | _ => [j.parityTa]

/-- The waiting reads that meet guarded write `j`, in the order in which they wait (R118, R119, R233). -/
def heldReads (s : State) (j : ParityJob) : List LineOp :=
  s.ctl.port.ops.filter (fun o => !o.acc.isWrite && decide (o.acc ≠ .tag) && meets j.op o)

/-- The lines that are read beside parity and side lines as guarded write `j` ends: those of a parity line that has to be rebuilt, those of a
side line's stripe, and the stripes of what the reads that meet the write have to rebuild (R379, R381, R384). -/
def jobReads (s : State) (j : ParityJob) (up : Upset) : List Loc :=
  parityReads j.op.ta up s ++ (match j.op.acc with
    | .unitWrite _ _ side _ _ =>
      parityReads side [] s ++ (match place s.ctl side with | some l => if rawBad s l [] then stripeBut s.ctl side else [] | none => [])
    | _ => []) ++ (heldReads s j).flatMap (fun o => (rebuildTas s o).flatMap (stripeBut s.ctl))

/-- The state without its guarded writes: what an access waits for beside them. -/
def State.unheld (s : State) : State := s.onCtl (fun c => { c with port := { c.port with parity := [] } })

/-- Whether guarded write `j` can end now: its line's bank is awake and its bundle trained, every line beside it can be written, which the
watermark of a migration can prevent, or read, and the reads that meet it can be served before it (R118, R210, R211, R380). -/
def jobAvail (s : State) (l : Loc) (j : ParityJob) (up : Upset) : Avail :=
  let open_ (a : Avail) : Avail := match a with | .absent => .ready | x => x
  let a := j.others.foldl (fun a t => a.and (open_ (lineAvail s t false true))) (avail s.ctl l true)
  (heldReads s j).foldl (fun a o => a.and (open_ (opAvail s.unheld o))) (a.and (readsAvail s (jobReads s j up)))

/-- A guarded write that cannot end keeps the cause of its wait and asks for wakes (R380, R416). -/
def jobWaits (k : Nat) (l : Loc) (j : ParityJob) (up : Upset) (cause : Option Cause) (s : State) : State :=
  s.onCtl (fun c =>
    let c1 := { c with port := { c.port with parity := c.port.parity.set k { j with res := { j.res with cause := cause } } } }
    let met := ((heldReads s j).flatMap LineOp.lines).filterMap (place c)
    if cause = some .retWake then
      (l :: (j.others.filterMap (place c) ++ jobReads s j up ++ met.filter (fun x => !s.store.isZero (keyOf c x)))).foldl (fun c x => wantWake x c) c1
    else c1)

/-- A read that meets guarded write `j` as it is served: with the mark of the rebuild that it needs, for which the write has waited (R150),
and, both being privileged, with undefined data and busy (R119). -/
def heldAs (j : ParityJob) (s : State) (o : LineOp) : LineOp :=
  let m := if (rebuildTas s o).isEmpty then o else o.mark
  if j.op.priv && o.priv then { m with busy := true, undef := true } else m

/-- A read that meets guarded write `j` is served before it: with the line as it was, or, both being privileged, with undefined data and busy
(R118, R119; log 119). -/
def serveHeld (j : ParityJob) (s : State) (o : LineOp) : State :=
  match place s.ctl o.ta with
  | none => s.onCtl (fun c => recordRes o (resSt .absent) (dropOp o c))
  | some l =>
    let o' := heldAs j s o
    if o.ta = j.op.ta ∧ (j.op.priv && o.priv) = false then serveOld o' l j.old (s.swapOp o o') else serveOp o' [] (s.swapOp o o')

/-- The waiting accesses that meet guarded write `j` as it ends: the reads are served first, and a privileged write behind a privileged one
carries busy, since it is decided second (R118, R119). -/
def heldMeets (j : ParityJob) (s : State) : State :=
  ((heldReads s j).foldl (serveHeld j) s).onCtl (fun c => { c with port := { c.port with ops := c.port.ops.map (fun o =>
    if j.op.priv && o.priv && o.acc.isWrite && meets j.op o then { o with busy := true } else o) } })

/-- Guarded write `j` ends: parity, the line, and the side entry of a format unit (R231, R379). -/
def jobEnds (l : Loc) (j : ParityJob) (up : Upset) (s : State) : State × Status :=
  let s1 := storeLine l j.new j.poison (applyParity j.op.ta up j.diff j.new s)
  match j.op.acc with
  | .unitWrite _ poison side lo entry => writeSide j.op side lo (if poison then entry.map (fun _ => 0) else entry) s1
  | _ => (s1, .ok)

/-- GUARDED_PARITY_UPDATE (R379): the parity slice applies the difference of guarded write `k`, and the write is done, with the bank moves that
waited for it (R418). It waits for a bank, a retrain or the watermark like any write (R380). -/
def execGuardedParityUpdate (k : Nat) (up : Upset) (s : State) : Ans :=
  match s.ctl.port.parity[k]? with
  | none => .next s
  | some j =>
    match place s.ctl j.op.ta with
    | none => .next (s.onCtl (fun c => recordRes j.op (resSt .absent) (dropJob k c)))
    | some l =>
      if redirectBad s.ctl l then .next (served (redirect s.ctl l.s l.x) (s.onCtl (fun c => recordRes j.op (resSt .poison) (dropJob k c)))) else
      match jobAvail s l j up with
      | .wait cause => .next (jobWaits k l j up cause s)
      | .absent => .next (served (redirect s.ctl l.s l.x) (s.onCtl (fun c => recordRes j.op (resSt .absent) (dropJob k c))))
      | .ready =>
        let (s1, st) := jobEnds l j up (heldMeets j (s.onCtl (dropJob k)))
        .next (served (redirect s.ctl l.s l.x) (s1.onCtl (recordRes j.op { j.res with st := worst j.res.st st })))

/-- The guarded data lines of a zero-bit group with their places: what its loss poisons under the parity protocol (R267, R379). -/
def groupGuarded (s : State) (p bank group : Nat) : List (Nat × Loc) :=
  (List.range 64).filterMap (fun i => (keyTa s.ctl (physKey p bank (64 * group + i))).bind (fun ta =>
    if isGuarded s.ctl ta && !isParity s.ctl ta then (place s.ctl ta).map (fun l => (ta, l)) else none))

/-- The lines that are read, or written for parity, as guarded line `x` of a lost group is poisoned (R379, R381, R384). -/
def groupReads (s : State) (x : Nat × Loc) : List Loc :=
  (place s.ctl (parityTa x.1)).toList ++ parityReads x.1 [] s ++ (if rawBad s x.2 [] then stripeBut s.ctl x.1 else [])

/-- Whether a zero-bit group can be reloaded from its bank's copy, which lies in the array: the bank is awake and its bundle trained (R266,
R395). -/
def groupOwn (c : Ctl) (p bank : Nat) : Avail :=
  match (bankOf c p bank).st with
  | .off => .absent
  | .on => if retraining c p bank then .wait (some .retrain) else .ready
  | _ => .wait (some .retWake)

/-- What the poisoning of a lost group waits for, as writes do: a guarded write that holds one of its lines, its bank and its bundles, and what
parity needs (R16, R210, R211, R265, R380). -/
def groupAvail (s : State) (p bank group : Nat) : Avail :=
  let held := s.ctl.port.parity.any (fun j => j.op.lines.any (fun t => match place s.ctl t with
    | some l => decide (keyOf s.ctl l / 64 = groupKey p bank (64 * group))
    | none => false))
  (groupGuarded s p bank group).foldl (fun a x =>
      (a.and (match lineAvail s (parityTa x.1) false true with | .absent => .ready | y => y)).and (readsAvail s (groupReads s x)))
    (if held then .wait none else groupOwn s.ctl p bank)

/-- The poisoning of a lost group asks for the wakes that it waits for. -/
def groupWakes (s : State) (p bank group : Nat) (c : Ctl) : Ctl :=
  ((groupGuarded s p bank group).flatMap (groupReads s)).foldl (fun c x => wantWake x c)
    ((withTwin c p).foldl (fun c q => askBank q bank c) c)

/-- The parity line of guarded line `x` loses what the line added to it: a poisoned line counts as zeros (R378, R379; log 17). -/
def groupParity (s : State) (x : Nat × Loc) : State :=
  let (s1, old) := readLine x.1 x.2 [] s
  applyParity x.1 [] (countedAs old) zeroLine s1

/-- Each of the 64 lines of a lost group is stored poisoned (R267, R379). -/
def groupLost (p bank group : Nat) (s : State) : State :=
  (List.range 64).foldl (fun s i => s.onStore (Store.poison true (physKey p bank (64 * group + i)))) ((groupGuarded s p bank group).foldl groupParity s)

/-- Whether the reload of a zero-bit group can be made: of a lost one, with the poisoning of its lines. Groups that wait do not wait for each
other. -/
def reloadAvail (s : State) (p bank group : Nat) (copyBad : Bool) : Avail :=
  if copyBad then groupAvail (s.onCtl (dropGroups (fun _ => true))) p bank group else groupOwn s.ctl p bank

/-- The reload of a group waits, and accesses to its lines with it (R267); it asks for the wakes that it waits for. -/
def reloadWaits (s : State) (p bank group : Nat) (copyBad : Bool) (c : Ctl) : Ctl :=
  let c1 := { c with prt := { c.prt with tagWait := tabIns (groupKey p bank (64 * group)) copyBad c.prt.tagWait } }
  if copyBad then groupWakes s p bank group c1 else (withTwin c1 p).foldl (fun c q => askBank q bank c) c1

/-- TAG_GROUP_RELOAD (R267): a zero-bit group of 64 lines is reloaded from its bank's copy; where the copy cannot be corrected either, each of
its lines is stored poisoned, which like every write needs its bank awake (R265). A bank in OFF, or without power, has no group to reload. -/
def execTagGroupReload (p bank group : Nat) (copyBad : Bool) (s : State) : Ans :=
  let ls := (logicalOf s.ctl p).getD (p / 9 * 8)
  let note (kind src : Nat) (c : Ctl) : Ctl := capture (capOf c kind p bank (64 * group) 0 0 0 ls) (emit (evZ src (p / 9)) c)
  if ¬ (p < Config.physicalSlices ∧ bank < bankCount s.ctl ∧ group < 256 ∧ baseLogicOn s.ctl = true) then .next s
  else
    let s1 := s.onCtl (dropGroups (fun k => decide (k = groupKey p bank (64 * group))))
    match reloadAvail s p bank group copyBad with
    | .wait _ => .next (s.onCtl (reloadWaits s p bank group copyBad))
    | .absent => .next s1
    | .ready => .next (if copyBad then (groupLost p bank group s1).onCtl (fun c => note 0x07 0x2B (latchPrt 5 c)) else s1.onCtl (note 0x06 0x2A))

/-- HOLD_CUTOFF (R143, R144, R151). -/
def execHoldCutoff (g : Nat) (s : State) : Ans := nextCtl (fun c => if thymeRuns c ∧ g < 4 then holdCutoff g (fullRateHold g c) else c) s

/-- HOLD_UNIT_END (R144, R145). -/
def execHoldUnitEnd (g : Nat) (s : State) : Ans := nextCtl (fun c => if thymeRuns c ∧ g < 4 then unitEnd g c else c) s

/-- FULL_RATE_HOLD (R151). -/
def execFullRateHold (g : Nat) (s : State) : Ans := nextCtl (fun c => if thymeRuns c ∧ g < 4 then fullRateHold g c else c) s

/-- FULL_RATE_PACING_CHANGE (R151, R152): the monitors' new levels. -/
def execFullRatePacingChange (mvA mvB : Nat) (s : State) : Ans := nextCtl (supplyLevels mvA mvB) s

/-- THY_HOLD_LONG (R148). -/
def execThyHoldLong (g : Nat) (s : State) : Ans := nextCtl (fun c => if thymeRuns c then holdLong g c else c) s

/-- CHERVIL_REGISTER (R171..R182): the next item of core `z` is registered, and what it frees goes on. -/
def execChervilRegister (z : Nat) (s : State) : Ans :=
  nextCtl (fun c => if z < 16 then sorrelDrain 16 z (pump (chervilRegister z c)) else c) s

/-- The waiting stamps of core `z` in its window, as distances from the expected one. -/
def waitingStamps (c : Ctl) (z : Nat) : List Nat :=
  ((items c z).map (fun p => stampAhead (chvOf c z).e p.1)).filter (fun d => decide (d < 128))

/-- STAMP_GAP (R172): the expected stamp is missing, a later one waits, and the earliest waiting request was accepted CHV_CFG.gap × 256
pc ago. In a drain no gap counts as one (R468). -/
def execStampGap (z : Nat) (s : State) : Ans :=
  nextCtl (fun c =>
    let ds := waitingStamps c z
    let pcs := itemPcs c z
    let e := (chvOf c z).e
    match ds, pcs with
    | d :: rest, p :: ps =>
      let m := rest.foldl min d
      if baseLogicOn c = true ∧ zoneFenced c z = false ∧ m ≠ 0 ∧ ps.foldl min p + 256 * bits (reg c chvCfg) 0 8 ≤ c.pc then
        emit (evZ 0x19 z) (raiseInt 21 (raiseBit chvErr z (setChv z { chvOf c z with e := (e + m) % 256 } c)))
      else c
    | _, _ => c) s

/-- WRITE_RANGE_RETIRE (R176, R179). -/
def execWriteRangeRetire (id : Nat) (s : State) : Ans :=
  nextCtl (fun c =>
    match findReq c id with
    | none => c
    | some r =>
      match portCore r.port with
      | none => c
      | some z =>
        if r.range = .held ∧ r.complete = true then pump (reap (grantRange z (setReq { r with range := .retired } c))) else c) s

/-- WC_AGE_FLUSH (R182): the entry leaves, and with it the entries into which a registered request can then merge no more (R181). -/
def execWcAgeFlush (z ta : Nat) (s : State) : Ans :=
  nextCtl (fun c =>
    flushMet z true (flushWhere z 0 (fun e => decide (e.ta = ta) && decide (e.pc + 8 * bits (reg c chvCfg) 16 8 ≤ c.pc)) c)) s

/-- K_END (R185, R187): the interface takes ends while the zone is out of reset and open. -/
def execKEnd (z seq : Nat) (s : State) : Ans :=
  nextCtl (fun c => if coreOpen c z ∧ z < 16 then flushWhere z 3 (fun _ => true) (addEnd z (seq % 256) c) else noteWake 0 (114 + z) c) s

/-- K_END_RECORD (R186, R187, R189). -/
def execKEndRecord (z : Nat) (s : State) : Ans := nextCtl (fun c => sorrelDrain 16 z (recordEnds z c)) s

/-- INVALIDATION_ISSUE (R195). -/
def execInvalidationIssue (z : Nat) (s : State) : Ans := nextCtl (issueInv z) s

/-- VX_INV_DONE (R195). -/
def execVxInvDone (z id : Nat) (s : State) : Ans := nextCtl (dropInv z id) s

/-- INV_TIMEOUT (R199). -/
def execInvTimeout (z id : Nat) (s : State) : Ans :=
  nextCtl (fun c =>
    match (chvOf c z).invOut.find? (fun o => decide (o.id = id)) with
    | none => c
    | some o =>
      if baseLogicOn c = true ∧ o.rtc + 32 * bits (reg c chvCfg) 28 4 ≤ c.rtc then
        emit (evZ 0x1D z) (raiseInt 22 (raiseBit chvErrInv z (bumpSat (chvInv z) 0 16 (dropInv z id c))))
      else c) s

/-- An operation presented on the Sorrel interface of core `z`: it is taken, or it waits and wakes a SLEEP entry (R341, R427). -/
def sySend (z : Nat) (k : SyKind) (f : SyFields) (c : Ctl) : Ctl := if syReady c z then syTake z k f c else noteWake 0 (114 + z) c

/-- SY_ARRIVE, SY_WAIT, SY_ARRIVE_WAIT, SY_RETRACT, SY_SAVE, SY_RESTORE, CLAIM and FREE (R341..R345, R354, R362, R363). -/
def execSyArrive (z : Nat) (f : SyFields) (s : State) : Ans := nextCtl (sySend z .arrive f) s
def execSyWait (z : Nat) (f : SyFields) (s : State) : Ans := nextCtl (sySend z .wait f) s
def execSyArriveWait (z : Nat) (f : SyFields) (s : State) : Ans := nextCtl (sySend z .arriveWait f) s
def execSyRetract (z : Nat) (f : SyFields) (s : State) : Ans := nextCtl (sySend z .retract f) s
def execSySave (z : Nat) (f : SyFields) (s : State) : Ans := nextCtl (sySend z .save f) s
def execSyRestore (z : Nat) (f : SyFields) (s : State) : Ans := nextCtl (sySend z .restore f) s
def execClaim (z : Nat) (f : SyFields) (s : State) : Ans := nextCtl (sySend z .claim f) s
def execFree (z : Nat) (f : SyFields) (s : State) : Ans := nextCtl (sySend z .free f) s

/-- A queue WAIT ends with the release's status (R348). -/
def queueReleased (q : Nat) (broken : Bool) (c : Ctl) : Ctl :=
  modRun q (fun r => { r with wait := none, complete := true, force := if broken then some .broken else r.force }) c

/-- RELEASE_DELIVER (R197, R341, R346, R349): delivery `k` once its invalidation has completed; answers of one core in order, one per pc. -/
def execReleaseDeliver (k : Nat) (s : State) : Ans :=
  nextCtl (fun c =>
    match if baseLogicOn c then c.srl.rel[k]? else none with
    | none => c
    | some r =>
      if (match r.tok with | some t => tokDone c t | none => true) then
        let c1 := { c with srl := { c.srl with rel := c.srl.rel.eraseIdx k } }
        match r.kind with
        | .wake z ctx broken => drive (.wk z ctx (if broken then .broken else .ok)) c1
        | .queue q broken => queueReleased q broken c1
        | .answer z seq st v =>
          if srDriven c z || (c.srl.rel.take k).any (fun x => match x.kind with | .answer y _ _ _ => decide (y = z) | _ => false) then c
          else drive (.sr z seq st v) c1
      else c) s

end Sys2Proof.Machine
end

