-- ==== Sys2Proof/Machine/Records.lean ====
section
/-! DEFINITION. Command records: their fields, the whole-command checks that complete a command with UNSUPPORTED, the number of lines of
a command and the range it writes (R276, R284, R306..R315, Tables 8-2 to 8-9). -/

namespace Sys2Proof.Machine

/-- The bits of a 64-bit word outside `mask` are clear. -/
def onlyBits (w mask : Nat) : Bool := decide (w % 2 ^ 64 &&& (2 ^ 64 - 1 - mask % 2 ^ 64) = 0)

def lowMask (n : Nat) : Nat := 2 ^ n - 1

/-- Named bits of the arg field of word 0, as word bits, by opcode. -/
def argMask (op : Nat) : Nat :=
  if op = 1 then 0x3 <<< 32
  else if op = 5 ∨ op = 6 then lowMask 32 <<< 32
  else if op = 7 ∨ op = 8 then 1 <<< 32
  else if op = 9 then 0x3 <<< 32
  else if op = 10 then 0xFFFF0FFF <<< 32
  else if op = 0x10 then 0x3FF <<< 32
  else if op = 0x11 then 0x103FF <<< 32
  else if op = 0x12 then 0x1FFFF <<< 32
  else if op = 0x13 then 0xFF <<< 32
  else 0

/-- Named bits of word `i` of COPY by dimensions. -/
def copyMask (dims i : Nat) : Nat :=
  match i with
  | 1 => lowMask 48
  | 2 => lowMask 48
  | 3 => if dims = 0 then lowMask 32 else if dims = 1 then lowMask 48 else lowMask 64
  | 4 => if dims = 0 then 0 else lowMask 64
  | 5 => if dims = 2 then lowMask 64 else 0
  | _ => 0

/-- Named bits of word `i` of a record (Tables 8-4 to 8-9). -/
def wordMask (w0 i : Nat) : Nat :=
  let op := w0 % 256
  match op with
  | 1 => copyMask (nbits w0 32 2) i
  | 2 => match i with | 2 => lowMask 48 | 3 => lowMask 32 | 4 => lowMask 64 | _ => 0
  | 3 => match i with | 1 => lowMask 48 | 2 => lowMask 48 | 3 => lowMask 48 | 4 => lowMask 36 | 5 => lowMask 32 | _ => 0
  | 4 => match i with | 1 => lowMask 48 | 2 => lowMask 48 | 3 => lowMask 48 | 4 => lowMask 36 | 5 => lowMask 32 | _ => 0
  | 5 => match i with | 1 => lowMask 36 | 2 => lowMask 36 | 3 => lowMask 36 | 4 => lowMask 36 | 5 => lowMask 64 | 6 => lowMask 42 | _ => 0
  | 6 => match i with | 2 => lowMask 36 | 3 => lowMask 36 | 4 => lowMask 36 | 5 => lowMask 64 | 6 => lowMask 44 | _ => 0
  | 7 => match i with | 1 => lowMask 48 | 2 => lowMask 48 | 3 => lowMask 32 | _ => 0
  | 8 => match i with | 1 => lowMask 48 | 2 => lowMask 48 | 3 => lowMask 32 | _ => 0
  | 9 => match i with | 1 => lowMask 36 | 2 => lowMask 36 | 3 => lowMask 64 | _ => 0
  | 10 => match i with | 1 => lowMask 48 | 2 => lowMask 32 | 3 => lowMask 32 | _ => 0
  | 0x12 => if w0.testBit 48 then (match i with | 1 => lowMask 64 | 3 => lowMask 64 | _ => 0)
      else match i with | 1 => lowMask 36 | 3 => lowMask 32 | _ => 0
  | _ => 0

/-- Opcodes of Table 8-3. -/
def dataOp (op : Nat) : Bool := decide (1 ≤ op ∧ op ≤ 10)
def ctrlOp (op : Nat) : Bool := decide (op = 0 ∨ (0x10 ≤ op ∧ op ≤ 0x13))

/-- A reserved opcode or a reserved bit at 1 (R306). -/
def badRecord (ws : List Nat) : Bool :=
  let w0 := ws.getD 0 0
  let op := w0 % 256
  !(dataOp op || ctrlOp op) || !onlyBits w0 (0xFFFF1FFF ||| argMask op)
    || (List.range 7).any (fun i => !onlyBits (ws.getD (i + 1) 0) (wordMask w0 (i + 1)))

/-- An address with the space it names. -/
structure MAddr where
  sa : Bool
  a : Nat
deriving DecidableEq, Repr

/-- Line `n` of a run (R307, R544). -/
def MAddr.line (x : MAddr) (n : Nat) : MAddr := { x with a := x.a + 64 * n }

/-- An address word breaks R307: not line-aligned, or a TA above 36 bits. -/
def badAddr (sa : Bool) (w : Nat) : Bool := decide (w % 64 ≠ 0) || (!sa && decide (2 ^ 36 ≤ w))

/-- Fields of a running command. -/
def Run.q32 (r : Run) (i hi : Nat) : Nat := nbits (r.word i) (32 * hi) 32
def Run.src (r : Run) : MAddr := ⟨r.srcSa, nbits (r.word 1) 0 48⟩
def Run.dstA (r : Run) : MAddr := ⟨r.dstSa, nbits (r.word 2) 0 48⟩
def Run.rnd (r : Run) : Bool := (r.word 0).testBit 12
def Run.vty (r : Run) : Bool := (r.word 0).testBit 32
def Run.eLo (r : Run) : Nat := nbits (r.word 0) 32 8
def Run.eHi (r : Run) : Nat := nbits (r.word 0) 40 8
def Run.capacity (r : Run) : Nat := nbits (r.word 0) 48 16
def Run.entries (r : Run) : Nat := nbits (r.word 6) 0 16 + 1
def Run.tokens (r : Run) : Nat := nbits (r.word 6) 16 16 + 1
def Run.rowLines (r : Run) : Nat := nbits (r.word 6) 32 10 + 1
def Run.foldOp (r : Run) : FoldOp :=
  let k := if r.op = 9 then nbits (r.word 0) 32 2 else nbits (r.word 6) 42 2
  if k = 0 then .add else if k = 1 then .scaledAdd else .max

/-- Planes, rows and lines per row of a COPY. -/
def copyShape (r : Run) : Nat × Nat × Nat :=
  let d := nbits (r.word 0) 32 2
  (if d = 2 then nbits (r.word 3) 48 16 else 1, if d = 0 then 1 else nbits (r.word 3) 32 16, nbits (r.word 3) 0 32)

/-- The index entries of GATHER and SCATTER. -/
def Run.nIdx (r : Run) : Nat := nbits (r.word 3) 32 16 + 1

/-- The element size of a run or row that begins at a canonical TA (R249, R282, R312): `none` in register space or in a format that is
neither DENSE FP32 nor DENSE BF16. -/
def foldSize (c : Ctl) (ta : Nat) : Option Nat :=
  if windowOf c ta = .regs then none
  else if fmtOf c ta = 0x00 then some 4
  else if fmtOf c ta = 0x01 then some 2
  else none

/-- Bytes of view elements. -/
def vBytes (vty : Bool) : Nat := if vty then 4 else 2

/-- The geometry of the region of a command's TA. -/
def geoAt (c : Ctl) (ta : Nat) : Geo := geo (fmtOf c (canonTa (remapNow c) ta))

/-- R237 over the whole of a PACK. -/
def packUneven (c : Ctl) (r : Run) : Bool :=
  decide (nbits (r.word 3) 0 32 * viewLen r.vty % (geoAt c r.dstA.a).e ≠ 0)

/-- A whole-command check fails and the command completes with UNSUPPORTED (R276, R284, R306, R307, R311..R313, R315). -/
def refusedCommand (c : Ctl) (r : Run) : Bool :=
  let w (i : Nat) : Nat := r.word i
  let s := (w 0).testBit 10
  let d := (w 0).testBit 11
  badRecord r.words ||
    (match r.op with
    | 1 =>
      let (n2, n1, rl) := copyShape r
      decide (nbits (w 0) 32 2 = 3 ∨ n2 = 0 ∨ n1 = 0 ∨ rl = 0) || badAddr s (w 1) || badAddr d (w 2)
    | 2 => decide (nbits (w 3) 0 32 = 0) || badAddr d (w 2)
    | 3 => decide (nbits (w 3) 0 32 = 0) || badAddr s (w 1) || badAddr d (w 2) || badAddr false (w 4)
    | 4 => decide (nbits (w 3) 0 32 = 0) || badAddr s (w 1) || badAddr d (w 2) || badAddr false (w 4)
    | 5 => s || d || badAddr false (w 1) || badAddr false (w 2) || badAddr false (w 3) || badAddr false (w 4)
        || decide (r.eHi < r.eLo ∨ r.capacity = 0 ∨ nbits (w 5) 32 32 < r.capacity * r.rowLines)
    | 6 => s || d || !foldOn c || badAddr false (w 2) || badAddr false (w 3) || badAddr false (w 4)
        || decide (r.eHi < r.eLo ∨ r.capacity = 0 ∨ nbits (w 5) 32 32 < r.capacity * r.rowLines ∨ nbits (w 6) 42 2 = 3)
    | 7 => d || !fennelOn c || decide (nbits (w 3) 0 32 = 0) || badAddr s (w 1) || badAddr false (w 2) || packUneven c r
    | 8 => s || !fennelOn c || decide (nbits (w 3) 0 32 = 0) || badAddr false (w 1) || badAddr d (w 2)
    | 9 => s || d || !foldOn c || decide (nbits (w 3) 0 32 = 0 ∨ nbits (w 0) 32 2 = 3) || badAddr false (w 1) || badAddr false (w 2)
        || (foldSize c (canonTa (remapNow c) (w 1))).isNone || (foldSize c (canonTa (remapNow c) (w 2))).isNone
    | 10 => decide (11 < nbits (w 0) 40 4) || !linkOn c (nbits (w 0) 40 4) || decide (nbits (w 3) 0 32 = 0 ∨ nbits (w 2) 0 32 % 64 ≠ 0
        ∨ 2 ^ 32 < nbits (w 2) 0 32 + 64 * nbits (w 3) 0 32) || badAddr s (w 1)
    | 0x10 => decide (831 < nbits (w 0) 32 10)
    | 0x11 => decide (831 < nbits (w 0) 32 10)
    | 0x12 => !(w 0).testBit 48 && decide (w 1 % 256 ≠ 0 ∨ nbits (w 3) 0 32 = 0)
    | _ => false)

/-- The lines of a command that the engine counts: destination lines, view lines of UNPACK, payload lines of PACK, beats' lines of SEND. -/
def Run.total (c : Ctl) (r : Run) : Nat :=
  match r.op with
  | 1 => let (a, b, d) := copyShape r; a * b * d
  | 2 => nbits (r.word 3) 0 32
  | 3 => r.nIdx * nbits (r.word 3) 0 32
  | 4 => r.nIdx * nbits (r.word 3) 0 32
  | 7 => unitCount (geoAt c r.dstA.a) r.vty (nbits (r.word 3) 0 32)
  | 8 => nbits (r.word 3) 0 32
  | 9 => ceilDiv (nbits (r.word 3) 0 32 * (if r.sizes = (0, 0) then (foldSize c (canonTa (remapNow c) r.dstA.a)).getD 4 else r.sizes.2)) 64
  | 10 => nbits (r.word 3) 0 32
  | _ => 0

/-- The sum of the largest counts of a product's strides, in lines. -/
def copyReach (r : Run) : Nat :=
  let (n2, n1, rl) := copyShape r
  (n2 - 1) * r.q32 5 1 + (n1 - 1) * r.q32 4 1 + (rl - 1)

/-- The first and last TA of the lines that a command with a known range writes (R197); `none` where it writes no TA, or where its list
names the lines (SCATTER, ROUTE, COMBINE). -/
def writeSpan (c : Ctl) (r : Run) : Option (Nat × Nat) :=
  let d := r.dstA.a
  let upTo (n : Nat) : Option (Nat × Nat) := if r.dstSa then none else some (d, d + 64 * (n - 1))
  match r.op with
  | 1 => upTo (copyReach r + 1)
  | 2 => upTo (r.total c)
  | 3 => upTo (r.total c)
  | 7 =>
    let u := upTo (r.total c)
    u.map (fun x =>
      ((List.range (r.total c)).filterMap (fun i => (sideOf c (canonTa (remapNow c) (d + 64 * i))).map Prod.fst)).foldl
        (fun (a : Nat × Nat) s => (min a.1 s, max a.2 s))
        (if x.2 < 0x1000000 then (canonTa (remapNow c) x.1, canonTa (remapNow c) x.2) else x))
  | 8 => upTo (r.total c)
  | 9 => upTo (r.total c)
  | _ => none

end Sys2Proof.Machine
end

