-- ==== Sys2Proof/Machine/Movers.lean ====
section
/-! DEFINITION. The movers: how a command's lines are read and written in tensor memory and on the stack ports, and one step of each data
command (R197, R251, R252, R256, R277..R282, R288..R291, R297, R298, R308..R313, R318, R319, R322, R544, R545). -/

namespace Sys2Proof.Machine

def queueQos (c : Ctl) (q : Nat) : Nat := bits (reg c (movQctrl q)) 16 4

/-- One more access of queue `q`'s command is under way, and one more write issued. -/
def begun (q : Nat) (write : Bool) (c : Ctl) : Ctl :=
  modRun q (fun r => { r with outstanding := r.outstanding + 1, sent := if write then r.sent + 1 else r.sent }) c

/-- An access of a command completes without a slice or a port. -/
def moverNow (q key : Nat) (write : Bool) (st : Status) (c : Ctl) : Ctl :=
  modRun q (Run.got write key (resSt st)) (begun q write (if st = .absent then emit ⟨0x03, 1, 0, none, none, none⟩ c else c))

/-- An attribute change holds the region of a line (R73). -/
def regionBusy (c : Ctl) (ta : Nat) : Bool :=
  match c.region with
  | some ch => decide (regionOf ta = some ch.n)
  | none => false

/-- The energy of a mover's access `acc` to canonical `t` (R541): the stack or link class for a line that its command moves there, else
spread. -/
def moverEnergy (c : Ctl) (q key t : Nat) (acc : Acc) : Nat := accEnergy c (if saCommand c q && decide (key % 4 = 0) then 2 else 1) 1 t acc

/-- A mover issues an access in tensor memory; `none` while the region or Lovage holds it (R73, R154, R298, R439, R544). The access is built
from the canonical address. -/
def taIssue (q key ta : Nat) (write : Bool) (mk : Nat → Acc) (c : Ctl) : Option Ctl :=
  if 2 ^ 36 ≤ ta then some (moverNow q key write .absent c)
  else
    let t := canonTa (remapNow c) ta
    if regionBusy c t then none
    else
      match addrStatus c write t with
      | some st => some (moverNow q key write st c)
      | none =>
        let e := moverEnergy c q key t (mk t)
        if lovFull c 4 e then none else some (pushOp (.mover q key) t (mk t) false (queueQos c q) (begun q write (lovSpend 4 e c)))

/-- The port of a system address (R74, R75). -/
def saPortOf (a : Nat) : SaPort :=
  if 0x400000000000 ≤ a ∧ a < 0x400000000000 + 20 * 0xC00000000 then .sp ((a - 0x400000000000) / 0xC00000000) else .hpo

/-- Requests outstanding on a port. -/
def saOut (c : Ctl) (p : SaPort) : List SaReq := c.mov.sa.filter (fun r => decide (r.port = p))

/-- A stack port or outbound HP can be given a one-line request (R121..R123, R319, R322): tags, and for a read the response storage of its beats
and a beat in this cycle. That the stack or the host takes the request is the sender's choice of the moment (log 108). -/
def saReady (c : Ctl) (p : SaPort) (write : Bool) : Bool :=
  let reads := ((saOut c p).filter (fun r => !r.wr)).length
  decide ((saOut c p).length < 1024) && (match p with | .sp s => !quiesced c s | .hpo => true)
    && (write || (decide ((match p with | .hpo => 64 | .sp _ => 640) * (reads + 1) ≤ 65536) && beatFits c p))

/-- Tag `t` of a port is free (Table 3-7). -/
def tagFree (c : Ctl) (p : SaPort) (t : Nat) : Bool := c.mov.sa.all (fun r => decide (r.port ≠ p ∨ r.tag ≠ t))

/-- The lowest free tag of a port (log 36). -/
def saTagFree (c : Ctl) (p : SaPort) : Option Nat := (List.range 1024).find? (tagFree c p)

/-- Beats of one line on a port (R121): outbound HP carries half a line in a beat. -/
def lineBeats (p : SaPort) : Nat := match p with | .sp _ => 1 | .hpo => 2

/-- The write data beats of one line (Table 3-7), with the mask of the bytes to be written (R316, log 22). -/
def lineWd (p : SaPort) (tag : Nat) (d : Line) (mask : Nat) (poison : Bool) : List WdBeat :=
  match p with
  | .sp _ => [⟨p, tag, d, mask, poison⟩]
  | .hpo => [⟨p, tag, d.take 32, mask % 2 ^ 32, poison⟩, ⟨p, tag, d.drop 32, mask / 2 ^ 32, poison⟩]

/-- Send a line request of queue `q` on a stack port or outbound HP with the queue's QoS and tag `tag` (R121, R298): a read, whose response
storage is reserved, owes the credits for its beats, and a write has its data beats to send (R98, R123). That the credits are returned as the
read is issued is the model's choice: R123 gives no moment (DESIGN CHOICE, log 132). -/
def saSend (q key a : Nat) (write : Bool) (d : Line) (mask : Nat) (poison : Bool) (tag : Option Nat) (c : Ctl) : Option Ctl :=
  let p := saPortOf a
  match if saReady c p write then tag else none with
  | none => none
  | some t =>
    let c1 := drive (.saRq p write a 0 (queueQos c q) t) { c with mov := { c.mov with sa := c.mov.sa ++ [⟨p, t, q, key, write, []⟩] } }
    some (if write then { c1 with mov := { c1.mov with wd := c1.mov.wd ++ lineWd p t d mask poison } }
      else noteBeat p q { c1 with mov := { c1.mov with saOwed := tabMod 0 (saIndex p) (· + lineBeats p) c1.mov.saOwed } })

/-- A line that a mover reads or writes in SA has an energy of its own: not where the line's other side is in tensor memory, whose access has the
stack or link class for the whole move; of a line from SA to SA the write has it (R35, R438, R541). -/
def saPays (c : Ctl) (q : Nat) (write : Bool) : Bool :=
  match (queueOf c q).run with
  | some r => decide (r.op = 2 ∨ r.op = 10) || (r.srcSa && r.dstSa && write)
  | none => false

/-- Lovage admits a line of the stack or link class, and counts it (R438, R439). -/
def paySa (c : Ctl) : Ctl := token 2 1 (lovSpend 4 (tokenOf c 2) c)

/-- A mover issues a line request on a stack port or outbound HP (R121, R154, R318, R439, R544). -/
def saIssue (q key a : Nat) (write : Bool) (d : Line) (poison : Bool) (c : Ctl) : Option Ctl :=
  if 2 ^ 48 ≤ a then some (moverNow q key write .absent c)
  else
    let pays := saPays c q write
    if pays && lovFull c 4 (tokenOf c 2) then none
    else (saSend q key a write d fullMask poison (saTagFree c (saPortOf a)) c).map (fun c => begun q write (if pays then paySa c else c))

/-- Keys of a record fetch and of a completion record (log 20, log 22). -/
def fetchKey : Nat := 7
def recordKey : Nat := 3

/-- Path qualifier of source 0x3B: 0 stack, 1 link, 2 tensor, 3 host. A line with a side in a stack counts under that, else one with a side at
the host under that (log 129). -/
def movePath (a b : MAddr) : Nat :=
  let one (x : MAddr) : Option Nat := if x.sa then (match saPortOf x.a with | .sp _ => some 0 | .hpo => some 3) else none
  match one a, one b with
  | some 0, _ => 0
  | _, some 0 => 0
  | some _, _ => 3
  | _, some _ => 3
  | _, _ => 2

/-- Extend the range of TAs that a command has written (R197). -/
def Run.wroteTa (ta : Nat) (r : Run) : Run :=
  { r with span := match r.span with | none => some (ta, ta) | some (a, b) => some (min a ta, max b ta) }

/-- Read source line `n` of a command. -/
def moveRead (q n : Nat) (x : MAddr) (c : Ctl) : Option Ctl :=
  if x.sa then saIssue q (rKey n) x.a false zeroLine false c else taIssue q (rKey n) x.a false (fun _ => .read) c

/-- The line at `ta` takes a write from its address alone. -/
def takesWriteTa (c : Ctl) (ta : Nat) : Bool := decide (ta < 2 ^ 36) && (addrStatus c true (canonTa (remapNow c) ta)).isNone

/-- A write to `x` is a line moved: not one that completes from its address alone (R336, R544). -/
def movesLine (c : Ctl) (x : MAddr) : Bool := if x.sa then decide (x.a < 2 ^ 48) else takesWriteTa c x.a

/-- Write destination line `n` of a command. -/
def moveWrite (q n : Nat) (src x : MAddr) (d : Line) (poison : Bool) (c : Ctl) : Option Ctl :=
  let r := if x.sa then saIssue q (wKey n) x.a true d poison c else taIssue q (wKey n) x.a true (fun _ => .write d fullMask poison) c
  let n (c : Ctl) : Ctl := if movesLine c x then emit (evQueue 0x3B (movePath src x) q) c else c
  r.map (fun c => n (if x.sa then c else modRun q (Run.wroteTa x.a) c))

/-- Write a destination line with the status its source gave: a source that is not OK is written poisoned (R323, R545). -/
def writeFrom (q n : Nat) (src x : MAddr) (res : LineRes) (c : Ctl) : Option Ctl :=
  let c1 := modRun q (fun r => { r with buf := tabIns (wKey n) (resSt res.st) r.buf }) c
  moveWrite q n src x (if res.st = .ok then res.data else zeroLine) (decide (res.st ≠ .ok)) c1

/-- One step of the copy of line `n` (R308, R545): its read, or its write once the read has returned. -/
def copyLine (q n : Nat) (src dst : MAddr) (r : Run) (c : Ctl) : Option Ctl :=
  match tabFind r.buf (rKey n) with
  | some res => writeFrom q n src dst res (modRun q (fun r => { r with buf := tabDel (rKey n) r.buf }) c)
  | none =>
    if r.issued.contains n then none
    else (moveRead q n src c).map (modRun q (fun r => { r with issued := r.issued ++ [n] }))

/-- The state as it would be without Lovage's budget. -/
def unbudgeted (c : Ctl) : Ctl := { c with lov := { c.lov with share := [], room := [] } }

/-- Work of the device profile that goes on, or that Lovage alone turns away (R439, R455). -/
def orTurnedAway (f : Ctl → Option Ctl) (c : Ctl) : Ctl :=
  match f c with
  | some d => d
  | none => if (f (unbudgeted c)).isSome then lovTurnedAway 4 c else c

/-- The command on mover `m`, unless it has stopped. -/
def onMover (m op : Nat) (f : Nat → Run → Ctl → Option Ctl) (c : Ctl) : Ctl :=
  match c.mov.q.find? (fun p => match p.2.run with | some r => decide (r.mover = some m) | none => false) with
  | some (q, x) =>
    match x.run with
    | some r => if r.op = op ∧ r.force.isNone ∧ r.stop = false then orTurnedAway (f q r) c else c
    | none => c
  | none => c

/-- COPY, line `i` (R308). -/
def copyStep (i q : Nat) (r : Run) (c : Ctl) : Option Ctl :=
  if r.total c ≤ i then none
  else
    let (_, n1, rl) := copyShape r
    let j := i % rl
    let row := i / rl % n1
    let pl := i / (rl * n1)
    copyLine q i (r.src.line (pl * r.q32 5 0 + row * r.q32 4 0 + j)) (r.dstA.line (pl * r.q32 5 1 + row * r.q32 4 1 + j)) r c

/-- FILL, line `i` (R309). -/
def fillStep (i q : Nat) (r : Run) (c : Ctl) : Option Ctl :=
  if r.total c ≤ i ∨ r.issued.contains i then none
  else
    let d := (List.replicate 8 (leBytes 8 (r.word 4))).flatten
    (moveWrite q i (r.dstA.line i) (r.dstA.line i) d false c).map (modRun q (fun r => { r with issued := r.issued ++ [i] }))

/-- Read list line `k` of a command unless that is under way: its contents, or the step that asks for it. -/
def needList (q k base : Nat) (r : Run) (c : Ctl) : Option LineRes × Option Ctl :=
  match tabFind r.buf (listKey k) with
  | some res => (some res, none)
  | none =>
    if r.lists.contains k then (none, none)
    else (none, (taIssue q (listKey k) (base + 64 * k) false (fun _ => .read) c).map
      (modRun q (fun r => { r with lists := r.lists ++ [k] })))

/-- GATHER and SCATTER, line `i` (R310). -/
def indexStep (scatter : Bool) (i q : Nat) (r : Run) (c : Ctl) : Option Ctl :=
  if r.total c ≤ i then none
  else
    let rl := nbits (r.word 3) 0 32
    let k := i / rl
    let j := i % rl
    match needList q (k / 16) (nbits (r.word 4) 0 36) r c with
    | (none, step) => step
    | (some res, _) =>
      if res.st ≠ .ok then
        if r.issued.contains i then none
        else
          let c1 := modRun q (fun r => { r with issued := r.issued ++ [i] }) c
          if scatter then some (modRun q (fun r => { r with done := r.done + 1, sent := r.sent + 1, badRows := insertNew k r.badRows }) c1)
          else writeFrom q i r.src (r.dstA.line i) (resSt res.st) c1
      else
        let idx := fieldAt (leNat res.data) 32 (k % 16)
        let far := idx * nbits (r.word 5) 0 32 + j
        if scatter then copyLine q i (r.src.line i) (r.dstA.line far) r c
        else copyLine q i (r.src.line far) (r.dstA.line i) r c

/-- Zone whose codec serves the commands of queue `q` (R256). -/
def queueZone (q : Nat) : Nat := if q < 64 then q / 4 else 2 * (q - 64)

/-- View lines of a PACK that payload line `u` draws on. -/
def packViews (g : Geo) (vty : Bool) (lines u : Nat) : List Nat :=
  let v := viewLen vty
  (List.range (g.e / v + 2)).filterMap (fun k =>
    let i := u * g.e / v + k
    if i < lines ∧ i * v < (u + 1) * g.e then some i else none)

/-- A change holds the region that gives the stream at `a` its format, that of one of its payload lines `us`, or one that the stream runs
through up to there (R73, R213, R236). -/
def streamBusy (c : Ctl) (a : Nat) (us : List Nat) : Bool :=
  let at_ (x : Nat) : Option Nat := regionOf (canonTa (remapNow c) x)
  match c.region with
  | none => false
  | some ch => (a :: us).any (fun u => match at_ a, at_ u with
    | some n, some m => decide (n ≤ ch.n ∧ ch.n ≤ m)
    | none, some m => decide (m = ch.n)
    | _, none => false)

/-- The stream of payload line `u` of a PACK, or of view line `i` of an UNPACK, waits for an attribute change (R73, R213). -/
def packBusy (c : Ctl) (r : Run) (u : Nat) : Bool :=
  streamBusy c r.dstA.a ((packViews (geoAt c r.dstA.a) r.vty (nbits (r.word 3) 0 32) u).flatMap (viewUnits c (remapNow c) r.dstA.a r.vty))
def unpackBusy (c : Ctl) (r : Run) (i : Nat) : Bool := streamBusy c r.src.a (viewUnits c (remapNow c) r.src.a r.vty i)

/-- Lovage counts and admits the conversion of `n` view lines (R438, R439). -/
def payViews (n : Nat) (c : Ctl) : Ctl := token 5 n (lovSpend 4 (n * tokenOf c 5) c)

/-- PACK, payload line `u` (R311): reads its view lines, then quantises and writes it; one that the view lines do not fill, as a change of
the region's format can leave it, completes with UNSUPPORTED (R237, log 150); source 0x03 counts the payload lines that are not
populated (log 113). -/
def packStep (u q : Nat) (r : Run) (c : Ctl) : Option Ctl :=
  if r.total c ≤ u ∨ r.wrote.contains u ∨ packBusy c r u then none
  else
    let dst := r.dstA.a
    let g := geoAt c dst
    let v := viewLen r.vty
    let views := packViews g r.vty (nbits (r.word 3) 0 32) u
    let short := decide (nbits (r.word 3) 0 32 * v < (u + 1) * g.e)
    let bad := views.foldl (fun a i => match viewOf c (remapNow c) dst r.vty i with
      | .units _ => a
      | .absent => worst a .absent
      | .unsupported => worst a .unsupported) (if short then .unsupported else .ok)
    let firsts := views.filter (fun i => decide (i * v / g.e = u))
    let refused := (firsts.filter (fun i => decide (viewOf c (remapNow c) dst r.vty i = .unsupported))).length
    let mark (c : Ctl) : Ctl := modRun q (fun r => { r with wrote := r.wrote ++ [u] })
      (emit { evZ 0x26 (queueZone q) with w := refused } c)
    if bad ≠ .ok then some (mark (moverNow q (wKey u) true bad c))
    else
      match views.find? (fun i => !r.issued.contains i) with
      | some i => (moveRead q i (r.src.line i) c).map (modRun q (fun r => { r with issued := r.issued ++ [i] }))
      | none =>
        let rs := views.map (fun i => tabFind r.buf (rKey i))
        if rs.any Option.isNone then none
        else
          let rs := rs.filterMap id
          let st := rs.foldl (fun a x => worst a x.st) .ok
          let vals := (rs.map (fun x => viewValues r.vty (if x.st = .ok then x.data else zeroLine))).flatten
          let xs := (vals.drop (u * g.e - (views.headD 0) * v)).take g.e
          let draws := if r.rnd then lfsrValues g.e (lfsrAfter (u * g.e) r.lfsr) else []
          let qn := quantUnit g draws xs
          let z := queueZone q
          let poison := decide (st ≠ .ok)
          let ta := dst + 64 * u
          let acc (t : Nat) : Acc := match sideOf c t with
            | some (s, lo, _) => .unitWrite qn.pay poison s lo qn.entry
            | none => .write qn.pay fullMask poison
          let c1 := modRun q (fun r => { r with buf := tabIns (wKey u) (resSt st) r.buf }) c
          if takesWriteTa c ta then
            (taIssue q (wKey u) ta true acc (payViews firsts.length c1)).map (fun c =>
              let c2 := emit { evZ 0x21 z with w := g.e * vBytes r.vty } (emit (evQueue 0x3B (movePath r.src r.dstA) q) c)
              mark (if poison then c2 else countQuant z qn c2))
          else (taIssue q (wKey u) ta true acc c1).map mark

/-- A view line of UNPACK from its unit results (R239..R242). -/
def unpackLine (g : Geo) (vty : Bool) (i : Nat) (rs : List LineRes) : LineRes :=
  let st := rs.foldl (fun a x => worst a x.st) .ok
  if st ≠ .ok then resSt st
  else
    let vals := (rs.map (fun x => expandUnit g x.data x.side x.zero)).flatten
    let v := viewLen vty
    let first := i * v - i * v / g.e * g.e
    resData ((((vals.drop first).take v).map (viewBytes vty)).flatten) (rs.all LineRes.zero)

/-- UNPACK, view line `i` (R311): reads its units, then writes the expanded line raw. -/
def unpackStep (i q : Nat) (r : Run) (c : Ctl) : Option Ctl :=
  let src := r.src.a
  let g := geoAt c src
  if r.total c ≤ i ∨ r.wrote.contains i ∨ unpackBusy c r i then none
  else
    let mark (c : Ctl) : Ctl := modRun q (fun r => { r with wrote := r.wrote ++ [i] }) c
    let z := queueZone q
    let put (res : LineRes) : Option Ctl := (writeFrom q i r.src (r.dstA.line i) res c).map mark
    match viewOf c (remapNow c) src r.vty i with
    | .unsupported => (put (resSt .unsupported)).map (emit (evZ 0x26 z))
    | .absent => (put (resSt .absent)).map (emit ⟨0x03, 1, 0, none, none, none⟩)
    | .units us =>
      let ns := us.map (fun u => (u - src) / 64)
      match ns.find? (fun n => !r.issued.contains n) with
      | some n =>
        (taIssue q (rKey n) (src + 64 * n) false
          (fun t => match sideOf c t with | some (s, lo, k) => .unitRead s lo k | none => .read) c).map
            (modRun q (fun r => { r with issued := r.issued ++ [n] }))
      | none =>
        let rs := ns.map (fun n => tabFind r.buf (rKey n))
        if rs.any Option.isNone then none
        else
          let line := unpackLine g r.vty i (rs.filterMap id)
          ((writeFrom q i r.src (r.dstA.line i) line (payViews 1 c)).map mark).map (emit { evZ 0x20 z with w := 64 })

/-- Element sizes of a fold row (R282, R312); a first line in another format counts as 4 bytes, and its lines complete with UNSUPPORTED
(log 18). -/
def rowSize (c : Ctl) (ta : Nat) : Nat := (foldSize c (canonTa (remapNow c) ta)).getD 4

/-- A line at `ta` fits a run of `size`-byte elements (R312). -/
def foldFits (c : Ctl) (ta size : Nat) : Bool := decide (2 ^ 36 ≤ ta) || decide (foldSize c (canonTa (remapNow c) ta) = some size)

/-- The source lines that destination line `k` of a row draws on: first element, elements, first and last source line. -/
def foldCover (ss ds : Nat) (job : Job) : Nat × Nat × Nat × Nat :=
  let first := job.k * (64 / ds)
  let cnt := min (64 / ds) (job.n - first)
  (first, cnt, first / (64 / ss), (first + cnt - 1) / (64 / ss))

/-- The source elements of a fold line: bits, or none where the source line is not OK or is a zero line that R290 skips. -/
def foldSources (op : FoldOp) (ss first cnt h0 : Nat) (rs : List LineRes) : List (Option Nat) :=
  (List.range cnt).map (fun j =>
    let e := first + j
    match rs[e / (64 / ss) - h0]? with
    | some x => if x.st ≠ .ok ∨ (x.zero = true ∧ op ≠ .max) then none else some (fieldAt (leNat x.data) (8 * ss) (e % (64 / ss)))
    | none => none)

/-- One step of fold line number `j` (R289..R291, R312): its source reads, then the fold at its destination. A source line of another
format counts as a source that completes with UNSUPPORTED (log 19). A line that R290 skips completes with OK whatever state its bank is in
(log 102). Each destination line reads the source lines that it draws on: a BF16 source line under two FP32 lines is read for each (log 125). -/
def foldLineStep (q j : Nat) (job : Job) (r : Run) (c : Ctl) : Option Ctl :=
  if r.wrote.contains j then none
  else
    let ss := job.ss
    let ds := job.ds
    let (first, cnt, h0, h1) := foldCover ss ds job
    let hs := (List.range (h1 - h0 + 1))
    match hs.find? (fun t => !r.issued.contains (2 * j + t)) with
    | some t =>
      let a := job.src + 64 * (h0 + t)
      let key := rKey (2 * j + t)
      if regionBusy c (canonTa (remapNow c) a) then none
      else (if foldFits c a ss then taIssue q key a false (fun _ => .read) c else some (moverNow q key false .unsupported c)).map
        (modRun q (fun r => { r with issued := r.issued ++ [2 * j + t] }))
    | none =>
      let rs := hs.map (fun t => tabFind r.buf (rKey (2 * j + t)))
      if rs.any Option.isNone then none
      else
        let rs := rs.filterMap id
        let st := rs.foldl (fun a x => worst a x.st) .ok
        let op := r.foldOp
        let src := foldSources op ss first cnt h0 rs
        let dta := job.dst + 64 * job.k
        let t := canonTa (remapNow c) dta
        let fin (c : Ctl) : Ctl := modRun q (fun r => { r with
          wrote := r.wrote ++ [j], buf := hs.foldl (fun b t => tabDel (rKey (2 * j + t)) b) r.buf }) c
        if regionBusy c t then none
        else if !foldFits c dta ds then some (fin (moverNow q (wKey j) true .unsupported c))
        else if st = .ok ∧ src.all Option.isNone = true ∧ dta < 2 ^ 36 then
          match addrStatus c true t with
          | some x => some (fin (moverNow q (wKey j) true x c))
          | none =>
            let c1 := match place c t with | some l => emit (evZ 0x34 l.zone) c | none => c
            some (fin (moverNow q (wKey j) true .ok c1))
        else
          (taIssue q (wKey j) dta true
            (fun _ => .fold op job.w r.rnd (if r.rnd then job.draw else 0) (decide (ds = 4)) (decide (ss = 4)) st src) c).map
            (fun c => fin (if takesWriteTa c dta then emit (evQueue 0x3B 2 q) (modRun q (Run.wroteTa dta) c) else c))

/-- The regions of a row's first lines keep their attributes (R73, R213). -/
def rowsStill (c : Ctl) (src dst : Nat) : Bool := !regionBusy c (canonTa (remapNow c) src) && !regionBusy c (canonTa (remapNow c) dst)

/-- The element sizes of a FOLD's rows: those that its first line found (R213, R312). -/
def foldSizes (c : Ctl) (r : Run) : Nat × Nat := if r.sizes = (0, 0) then (rowSize c r.src.a, rowSize c r.dstA.a) else r.sizes

/-- Destination line `i` of a FOLD as work: the stream's state at its first element is that after the lines before it (R288). -/
def foldJob (c : Ctl) (i : Nat) (r : Run) : Job :=
  let (ss, ds) := foldSizes c r
  ⟨r.src.a, r.dstA.a, ss, ds, nbits (r.word 3) 0 32, i, nbits (r.word 3) 32 32, if r.rnd then lfsrAfter (i * (64 / ds)) r.lfsr else 0, 0⟩

/-- FOLD, destination line `i` (R312). -/
def foldStep (i q : Nat) (r : Run) (c : Ctl) : Option Ctl :=
  if r.total c ≤ i ∨ (r.sizes = (0, 0) ∧ rowsStill c r.src.a r.dstA.a = false) then none
  else (foldLineStep q i (foldJob c i r) r c).map (modRun q (fun x => { x with sizes := foldSizes c r }))

/-- A routing list entry (Table 7-3). -/
structure RouteEntry where
  token : Nat
  expert : Nat
  valid : Bool
  placed : Bool
  flags : Nat
  weight : Nat
  slot : Nat
deriving DecidableEq, Repr

/-- Entry `i` of its list line. -/
def entryAt (d : Line) (i : Nat) : RouteEntry :=
  let b := d.drop (16 * (i % 4))
  let f := (b.getD 3 0).toNat
  ⟨leNat (b.take 2), (b.getD 2 0).toNat, f.testBit 0, f.testBit 1, f, leNat ((b.drop 4).take 4), leNat ((b.drop 8).take 2)⟩

/-- Bytes 3 and 8..9 of entry `i` in its line, and the byte mask (R274). -/
def entryWrite (i flags slot : Nat) : Line × Nat :=
  let o := 16 * (i % 4)
  ((List.range 64).map (fun k => if k = o + 3 then BitVec.ofNat 8 flags else if k = o + 8 then BitVec.ofNat 8 slot
      else if k = o + 9 then BitVec.ofNat 8 (slot / 256) else 0),
    2 ^ (o + 3) + 2 ^ (o + 8) + 2 ^ (o + 9))

/-- Count table line number `k`: data and mask of the entries `lo..hi` (R275). -/
def countLineData (placed dropped : Tab Nat) (lo hi k : Nat) : Line × Nat :=
  let e (i : Nat) : Nat := 8 * k + i / 8
  ((List.range 64).map (fun i =>
      (leBytes 8 (tabGet 0 placed (e i) + 2 ^ 32 * tabGet 0 dropped (e i))).getD (i % 8) 0),
    (List.range 64).foldl (fun a i => if lo ≤ e i ∧ e i ≤ hi then a + 2 ^ i else a) 0)

/-- ROUTE's treatment of the next entry (R277, R279). What it writes into the list, and into the count table, is not counted as lines moved
(0x3B; DESIGN CHOICE, log 140). -/
def routeEntry (q : Nat) (r : Run) (d : Line) (c : Ctl) : Option Ctl :=
  let x := entryAt d r.ent
  let skip (r : Run) : Run := { r with ent := r.ent + 1 }
  if x.expert < r.eLo ∨ r.eHi < x.expert then some (modRun q skip c)
  else
    let n := tabGet 0 r.placed x.expert
    let bad := x.valid && decide (r.tokens ≤ x.token)
    let full := x.valid && !bad && decide (n = r.capacity)
    let put := x.valid && !bad && !full
    let slot := if put then n else 0xFFFF
    let flags := x.flags &&& 0xF1 ||| (if put then 2 else 0) ||| (if full then 4 else 0) ||| (if bad then 8 else 0)
    let rl := r.rowLines
    let src := nbits (r.word 1) 0 36 + 64 * (x.token * r.q32 5 0)
    let dst := nbits (r.word 2) 0 36 + 64 * (x.expert * r.q32 5 1 + n * rl)
    let rows := if put then (List.range rl).map (fun j => (⟨src + 64 * j, dst + 64 * j, 0, 0, 0, 0, 0, 0, 0⟩ : Job)) else []
    let (line, mask) := entryWrite r.ent flags slot
    let ta := nbits (r.word 3) 0 36 + 64 * (r.ent / 4)
    (taIssue q (auxKey r.ent) ta true (fun _ => .write line mask false) c).map (fun c =>
      let c1 := modRun q (fun r => { (r.wroteTa ta) with
        ent := r.ent + 1
        placed := if put then tabPut 0 x.expert (n + 1) r.placed else r.placed
        dropped := if full then tabMod 0 x.expert (· + 1) r.dropped else r.dropped
        detail := if full then r.detail + 1 else r.detail
        todo := r.todo ++ rows }) c
      let src_ := if put then 0x30 else if full then 0x31 else 0x32
      if put || full || bad then emit ⟨src_, 1, 0, none, none, none⟩ c1 else c1)

/-- Lines of the count table that a ROUTE writes. -/
def countLines (r : Run) : Nat := r.eHi / 8 - r.eLo / 8 + 1

/-- Take the next line of work: it becomes number `jobs`. -/
def nextJob (q : Nat) (c : Ctl) : Ctl :=
  modRun q (fun r => match r.todo with
    | [] => r
    | j :: rest => { r with todo := rest, going := r.going ++ [(r.jobs, j)], jobs := r.jobs + 1 }) c

/-- One step of ROUTE (R277, R278): a row line to write, a row line to read, the next entry, then the count table. -/
def routeStep (q : Nat) (r : Run) (c : Ctl) : Option Ctl :=
  match r.going.find? (fun p => (tabFind r.buf (rKey p.1)).isSome || !r.issued.contains p.1) with
  | some (n, j) =>
    (copyLine q n ⟨false, j.src⟩ ⟨false, j.dst⟩ r c).map (fun c =>
      if r.issued.contains n then modRun q (fun r => { r with going := r.going.filter (fun p => decide (p.1 ≠ n)) }) c else c)
  | none =>
    if r.todo ≠ [] then some (nextJob q c)
    else if r.ent < r.entries then
      match needList q (r.ent / 4) (nbits (r.word 3) 0 36) r c with
      | (none, step) => step
      | (some res, _) =>
        if res.st ≠ .ok then some (modRun q (fun r => { r with ent := min r.entries (4 * (r.ent / 4) + 4) }) c)
        else routeEntry q r res.data c
    else
      let k := r.ent - r.entries
      if countLines r ≤ k ∨ r.going ≠ [] then none
      else
        let line := r.eLo / 8 + k
        let (d, mask) := countLineData r.placed r.dropped r.eLo r.eHi line
        let ta := nbits (r.word 4) 0 36 + 64 * line
        (taIssue q (auxKey r.ent) ta true (fun _ => .write d mask false) c).map
          (modRun q (fun r => { (r.wroteTa ta) with ent := r.ent + 1 }))

/-- The state of queue `q`'s stream (R251, R258). -/
def seedFor (seed q : Nat) : Nat := let s := seed ^^^ ((q + 1) * 0x10001) % 2 ^ 32; if s = 0 then 1 else s
def lfsrOfQ (c : Ctl) (q : Nat) : Nat := (tabFind c.lfsrQ q).getD (seedFor 1 q)
def drawQ (q n : Nat) (c : Ctl) : Ctl := { c with lfsrQ := tabIns q (lfsrAfter n (lfsrOfQ c q)) c.lfsrQ }

/-- The entry is folded by the COMBINE (R281). -/
def combineTakes (r : Run) (x : RouteEntry) : Bool :=
  decide (r.eLo ≤ x.expert ∧ x.expert ≤ r.eHi ∧ x.slot < r.capacity ∧ x.token < r.tokens) && x.placed

/-- The key of the draws of the sixteen elements of number `g` in the row of list entry `e`. -/
def drawKey (e g : Nat) : Nat := 65536 * e + g

/-- The rows that list entry `x` of a COMBINE names: source and destination (R281). -/
def combineRows (r : Run) (x : RouteEntry) : Nat × Nat :=
  (nbits (r.word 2) 0 36 + 64 * (x.expert * r.q32 5 1 + x.slot * r.rowLines), nbits (r.word 4) 0 36 + 64 * (x.token * r.q32 5 0))

/-- The destination lines of a row of `lines` source lines, with element sizes `ss` and `ds`, and the elements of line `k`. -/
def rowLinesOut (lines ss ds : Nat) : Nat := ceilDiv (64 * lines / ss * ds) 64
def lineElems (lines ss ds k : Nat) : Nat := min (64 / ds) (64 * lines / ss - k * (64 / ds))

/-- The work that the row from `src` to `dst` of list entry number `e` gives a COMBINE, with weight `w`: line by line, with the draws that the
start of the command gave each (R282, R288). -/
def rowJobs (c : Ctl) (r : Run) (e src dst w : Nat) : List Job :=
  let ss := rowSize c src
  let ds := rowSize c dst
  (List.range (rowLinesOut r.rowLines ss ds)).map (fun k =>
    ⟨src, dst, ss, ds, 64 * r.rowLines / ss, k, w, tabGet r.lfsr r.draws (drawKey e (k * (64 / ds) / 16)), e⟩)
def combineJobs (c : Ctl) (r : Run) (e : Nat) (x : RouteEntry) : List Job := rowJobs c r e (combineRows r x).1 (combineRows r x).2 x.weight

/-- COMBINE's treatment of the next entry (R281, R282, R288); it waits while the attributes of its rows change (R213). -/
def combineEntry (q : Nat) (r : Run) (d : Line) (c : Ctl) : Option Ctl :=
  let x := entryAt d r.ent
  if combineTakes r x then
    if rowsStill c (combineRows r x).1 (combineRows r x).2 then
      some (modRun q (fun r => { r with ent := r.ent + 1, todo := r.todo ++ combineJobs c r r.ent x }) c)
    else none
  else
    let c1 := modRun q (fun r => { r with ent := r.ent + 1, detail := satAdd 32 r.detail 1 }) c
    some (if x.placed then emit ⟨0x32, 1, 0, none, none, none⟩ c1 else c1)

/-- Fold line `j` is the first of its row, and its row has other element sizes than the regions of its rows have now: it was sized before an
attribute change (R213, R282). -/
def rowStale (c : Ctl) (j : Job) : Bool := decide (j.k = 0) && rowsStill c j.src j.dst && decide ((rowSize c j.src, rowSize c j.dst) ≠ (j.ss, j.ds))

/-- A row that has not begun takes the element sizes of its regions as they are now (R213, log 143). -/
def resizeRow (q : Nat) (j : Job) (c : Ctl) : Ctl :=
  modRun q (fun r =>
    let rest := r.todo.dropWhile (fun x => decide (x.e = j.e))
    let new := rowJobs c r j.e j.src j.dst j.w
    { r with going := [], todo := new ++ rest, planned := r.planned + new.length - (r.todo.length + r.going.length - rest.length) }) c

/-- One step of COMBINE (R281): the present fold line, the next one, or the next entry. A row that has not begun waits while the attributes of
its regions change (R213). -/
def combineStep (q : Nat) (r : Run) (c : Ctl) : Option Ctl :=
  match r.going with
  | (n, j) :: _ =>
    if r.wrote.contains n then some (modRun q (fun r => { r with going := r.going.drop 1 }) c)
    else if !r.issued.contains (2 * n) && !r.issued.contains (2 * n + 1) && rowStale c j then some (resizeRow q j c)
    else foldLineStep q n j r c
  | [] =>
    match r.todo with
    | j :: _ =>
      if rowStale c j then some (resizeRow q j c)
      else if j.k = 0 ∧ rowsStill c j.src j.dst = false then none
      else some (nextJob q c)
    | [] =>
    if r.ent < r.entries then
      match needList q (r.ent / 4) (nbits (r.word 3) 0 36) r c with
      | (none, step) => step
      | (some res, _) =>
        if res.st ≠ .ok then some (modRun q (fun r => { r with ent := min r.entries (4 * (r.ent / 4) + 4) }) c)
        else combineEntry q r res.data c
    else none

/-- SEND, line `i` (R313): its read. -/
def sendStep (i q : Nat) (r : Run) (c : Ctl) : Option Ctl :=
  if r.total c ≤ i ∨ r.issued.contains i then none
  else (moveRead q i (r.src.line i) c).map (modRun q (fun r => { r with issued := r.issued ++ [i] }))

/-- All work of a running command has been issued and has returned. -/
def runComplete (c : Ctl) (r : Run) : Bool :=
  decide (r.outstanding = 0) &&
    (if r.force.isSome || r.stop then true
    else if ctrlOp r.op then r.complete
    else if r.op = 5 then decide (r.ent = r.entries + countLines r ∧ r.todo = [] ∧ r.going = [])
    else if r.op = 6 then decide (r.ent = r.entries ∧ r.todo = [] ∧ r.going = [])
    else if r.op = 10 then decide (r.total c ≤ 2 * r.beats)
    else decide (r.total c ≤ r.done))

end Sys2Proof.Machine
end

