-- ==== Sys2Proof/Machine/Landing.lean ====
section
/-! DEFINITION. Landing windows and the landing unit (R124..R126, R206, R324..R329, R478). -/

namespace Sys2Proof.Machine

def winOf (c : Ctl) (w : Nat) : Win := tabGet Win.rest c.lnd.win w
def setWin (w : Nat) (v : Win) (c : Ctl) : Ctl := { c with lnd := { c.lnd with win := tabPut Win.rest w v c.lnd.win } }

/-- Base, size and expected count of a window in bytes, and its bound barrier (Tables 8-23, 8-24). -/
def winBase (c : Ctl) (w : Nat) : Nat := bits (reg c (lndW w 0x04)) 0 4 * 2 ^ 32 + (reg c (lndW w 0x00)).toNat
def winSize (c : Ctl) (w : Nat) : Nat := (reg c (lndW w 0x08)).toNat
def winExp (c : Ctl) (w : Nat) : Nat := (reg c (lndW w 0x0C)).toNat
def winBound (c : Ctl) (w : Nat) : Nat := bits (reg c (lndWctrl w)) 12 10
def winCtx (c : Ctl) (w : Nat) : Nat := bits (reg c (lndWctrl w)) 24 8

/-- A window closes without arriving: its generation increases by 1 (R329). -/
def closeWin (w : Nat) (c : Ctl) : Ctl :=
  let x := winOf c w
  setWin w { x with isOpen := false, gen := (x.gen + 1) % 65536 } c

/-- The range of a window lies in one populated place (R328). -/
def winFits (c : Ctl) (base size : Nat) : Bool :=
  let inside (lo n : Nat) : Bool := decide (lo ≤ base ∧ base + size ≤ lo + n)
  inside taSpread (spreadMib c * 0x100000) || inside taPm 0x4000000
    || (List.range 16).any (fun z => inside (taNear + z * 0x40000000) (popMib c z * 0x100000))

/-- A window opens, or the open is ignored (R328, R470, R478). -/
def openWin (w : Nat) (c : Ctl) : Ctl :=
  let x := winOf c w
  if bit (reg c brlAbortSt) 31 then emit ⟨0x9E, 1, 0, none, none, none⟩ c
  else if x.isOpen || !domReleased c 17 || devFenced c || decide (winExp c w = 0 ∨ winSize c w < winExp c w)
      || !winFits c (winBase c w) (winSize c w) then c
  else setWin w { x with isOpen := true, rcv := 0, ref := false } c

/-- A write to LND_WCTRL[w] (R328, R329): ctx and bound while CLOSED, then close, which wins over open. -/
def lndCtrl (w : Nat) (v : Word) (c : Ctl) : Ctl :=
  let c1 := if (winOf c w).isOpen then c else writeStored (lndWctrl w) v c
  if bit v 2 then closeWin w c1 else if bit v 1 then openWin w c1 else c1

/-- Count in an LND register unless the landing domain is in reset (R128). -/
def bumpLnd (o : Nat) (c : Ctl) : Ctl := if domInReset c 17 then c else bumpSat o 0 32 c

/-- A line dropped under LATE_DROP (R324). -/
def lateDrop (w : Nat) (c : Ctl) : Ctl :=
  let x := winOf c w
  let c1 := if domInReset c 17 then c else setWin w { x with drop := satAdd 32 x.drop 1 } c
  emit (evQ 0x49 w) (bumpLnd lndLate c1)

/-- The landing unit checks one valid line and drops it or writes it (R324, R326). -/
def landLine (link w gen off : Nat) (d : Line) (poison : Bool) (c : Ctl) : Ctl :=
  let x := winOf c w
  if x.isOpen = false ∨ x.gen ≠ gen then lateDrop w c
  else if winSize c w < off + 64 then emit ⟨0x4A, 1, 0, none, none, none⟩ (bumpLnd lndOor c)
  else
    let k := c.lnd.next
    { c with lnd := { c.lnd with land := c.lnd.land ++ [⟨k, link, w, gen, none, some (winBase c w + off, d, poison)⟩], next := k + 1 } }

/-- A line that the landing unit has taken goes to its slice, or has its status from its address alone; it stays while its region changes (R73).
Lovage never delays it (R37). -/
def landGo (x : Land) (c : Ctl) : Ctl :=
  let put (out : Option Status) (c : Ctl) : Ctl :=
    { c with lnd := { c.lnd with land := c.lnd.land.map (fun y => if y.id = x.id then { y with out := out, wait := none } else y) } }
  match x.wait with
  | none => c
  | some (ta, d, poison) =>
    if regionBusy c ta then c
    else
      match addrStatus c true ta with
      | some st => put (some st) c
      | none => pushOp (.land x.id) ta (.write d fullMask poison) false 0 (put none c)

/-- The landing unit can take a beat: with none of its lines held, or with room for those of the beat (R73; the room is open, log 96). -/
def landRoom (c : Ctl) : Bool :=
  let n := (c.lnd.land.filter (fun x => x.wait.isSome)).length
  decide (n = 0 ∨ n + 2 ≤ Config.landRoom)

/-- The valid lines of a beat: position, data and poison. -/
def LpBeat.lines (b : LpBeat) : List (Nat × Line × Bool) :=
  ((List.range 2).filter (fun i => b.lv.getD i false)).map (fun i =>
    (b.off + 64 * i, (List.range 64).map (fun k => (b.data.getD i []).getD k 0), b.poison.getD i false))

/-- The energy of the lines that a beat stores (R439, R541). -/
def beatEnergy (c : Ctl) (b : LpBeat) : Nat :=
  if (winOf c b.win).isOpen = false ∨ (winOf c b.win).gen ≠ b.gen then 0
  else (b.lines.map (fun x => accEnergy c 2 1 (winBase c b.win + x.1) (.write [] fullMask x.2.2))).sum

/-- The landing unit takes a beat: the credit is owed, and its lines are checked; a beat whose offset is not line-aligned is dropped and counted
(R124..R126, R324). -/
def takeBeat (b : LpBeat) (c : Ctl) : Ctl :=
  let c1 := { c with mov := { c.mov with lpOwed := tabMod 0 b.link (· + 1) c.mov.lpOwed } }
  if b.off % 64 ≠ 0 then emit (evP 0x08 (100 + b.link)) c1
  else
    let c2 := b.lines.foldl (fun c x => landLine b.link b.win b.gen x.1 x.2.1 x.2.2 c) (lovSpend 4 (beatEnergy c b) c1)
    c2.lnd.land.foldl (fun c x => landGo x c) c2

/-- The landing unit takes the waiting beats in order: not during SLEEP entry, not without room, and not while Lovage holds the device profile
(R37, R73, R125, R154, R427). -/
def takeBeats (bs : List LpBeat) (c : Ctl) : Ctl :=
  match bs with
  | [] => { c with lnd := { c.lnd with inbox := [] } }
  | b :: rest =>
    if c.pwr.entry.isSome || !landRoom c then { c with lnd := { c.lnd with inbox := bs } }
    else if lovFull c 4 (beatEnergy c b) && decide (beatEnergy c b ≠ 0) then lovTurnedAway 4 { c with lnd := { c.lnd with inbox := bs } }
    else takeBeats rest (takeBeat b c)

/-- The landing unit sends on what it holds, in order of arrival, and takes the beats that it can. -/
def landPump (c : Ctl) : Ctl :=
  let c1 := c.lnd.land.foldl (fun c x => landGo x c) c
  if c1.lnd.inbox = [] then c1 else takeBeats c1.lnd.inbox c1

/-- An inbound beat (R124..R126, R324): it spends a credit, which returns once the landing unit has taken the beat. During SLEEP entry it
waits and is a wake event (R427); without a credit it is dropped and counted (Table 12-12). -/
def lpIn (l w gen off : Nat) (lv poison : List Bool) (data : List Line) (c : Ctl) : Ctl :=
  let n := tabGet 0 c.mov.lpGiven l
  if c.dev.run ≠ .running ∨ linkOn c l = false ∨ 255 < w ∨ bit (reg c pwrSt) 31 = true then c
  else if n = 0 then emit (evP 0x09 (100 + l)) c
  else
    landPump (noteWake 0 (100 + l) { c with
      mov := { c.mov with lpGiven := tabPut 0 l (n - 1) c.mov.lpGiven }
      lnd := { c.lnd with inbox := c.lnd.inbox ++ [⟨l, w, gen % 65536, off, lv, poison, data⟩] } })

/-- The window arrives at its bound barrier and closes (R327, R348), while the Sorrel domain is in reset too (DESIGN CHOICE, log 153); one
without a barrier, or of a Sorrel that has stopped, only closes. -/
def winArrive (w : Nat) (c : Ctl) : Ctl :=
  let b := winBound c w
  let c1 := closeWin w c
  if b = 0x3FF ∨ 831 < b ∨ c1.srl.dead = true then c1 else (barSignal b (0x100 + w) 0x0A (emit (evQ 0x4B w) c1)).2

/-- A line counts 64 bytes in its window if that is still open with the line's generation (R325..R327). -/
def landCount (x : Land) (refused : Bool) (c : Ctl) : Ctl :=
  let w := winOf c x.win
  if w.isOpen = true ∧ w.gen = x.gen then
    let w1 := { w with rcv := w.rcv + 64, ref := w.ref || refused }
    let c1 := setWin x.win w1 c
    if winExp c x.win ≤ w1.rcv then winArrive x.win c1 else c1
  else c

/-- Take landing line `k`, whose slice has answered, off the list. -/
def dropLand (k : Nat) (c : Ctl) : Ctl := { c with lnd := { c.lnd with land := c.lnd.land.filter (fun x => decide (x.id ≠ k)) } }

/-- LANDING_LINE_ACCEPT (R325): the slice has accepted line `k`. -/
def landAccept (k : Nat) (c : Ctl) : Ctl :=
  match c.lnd.land.find? (fun x => decide (x.id = k)) with
  | none => c
  | some x =>
    match x.out with
    | some .ok => landCount x false (emit (evQ 0x48 x.win) (dropLand k c))
    | _ => c

/-- LANDING_LINE_REFUSED (R326): the slice has refused line `k`. -/
def landRefuse (k : Nat) (c : Ctl) : Ctl :=
  match c.lnd.land.find? (fun x => decide (x.id = k)) with
  | none => c
  | some x =>
    match x.out with
    | none => c
    | some .ok => c
    | some _ => landCount x true (emit (evQ 0x4C x.win) (bumpLnd lndRefused (dropLand k c)))

end Sys2Proof.Machine
end

