-- ==== Sys2Proof/Machine/Inline.lean ====
section
/-! DEFINITION. What Brural writes to tensor memory for itself within one command: the crash record, the Sorrel dump and boot memory
(R16, R40, R360, R463, R475). -/

namespace Sys2Proof.Machine

/-- Cut consecutive bytes from `ta` on into line writes: address, data, mask. `fuel` exceeds the number of lines. -/
def cutLines (fuel ta : Nat) (bs : List Byte) : List (Nat × Line × Nat) :=
  match fuel with
  | 0 => []
  | n + 1 =>
    match bs with
    | [] => []
    | _ =>
      let o := ta % 64
      let k := min (64 - o) bs.length
      ((ta - o, List.replicate o 0 ++ bs.take k ++ List.replicate (64 - o - k) 0, (2 ^ k - 1) <<< o) : Nat × Line × Nat)
        :: cutLines n (ta + k) (bs.drop k)

/-- Write the bytes of `mask` of the line at `ta`, which no other agent writes (R16), as a spread line (R541). Whoever calls it has
seen to it that the line can be written. One behind a lost redirect entry is discarded (R476, log 159). -/
def putLine (s : State) (p : Nat × Line × Nat) : State :=
  match place s.ctl p.1 with
  | none => s
  | some l =>
    if redirectBad s.ctl l then s else
    let (s1, old) := if p.2.2 = fullMask then (s, resSt .ok)
      else
        let (a, r) := readLine p.1 l [] s
        (a.onCtl (countBeside 1 l false r.zero), r)
    let d := maskLine p.2.2 p.2.1 old.data
    (storeLine l d false s1).onCtl (countBeside 1 l true (allZero d))

/-- The lines of consecutive bytes from `ta` on. -/
def byteLines (ta : Nat) (bs : List Byte) : List (Nat × Line × Nat) := cutLines (bs.length / 64 + 2) ta bs

/-- The line addresses of `n` consecutive bytes from `ta` on. -/
def byteTas (ta n : Nat) : List Nat := (List.range (ceilDiv (ta % 64 + n) 64)).map (fun k => ta - ta % 64 + 64 * k)

/-- First address of the Sorrel dump (R360). -/
def taDump : Nat := 0xE13FF0000

/-- The line addresses of the Sorrel dump: 28,256 bytes (Table 9-6). -/
def dumpTas : List Nat := byteTas taDump 28256

/-- First address of the crash record (R475). -/
def taCrash : Nat := 0xE10200000

/-- The line addresses of the crash record and of the Sorrel dump. -/
def recordTas : List Nat := byteTas taCrash 0x100000 ++ dumpTas

/-- Whether Brural's own write of the lines at these addresses can be made now: their banks are awake and their bundles trained, and no migration
holds them (R16, R211, R265, R395, R399). A line of a bank in OFF is passed over (R265). -/
def ownAvail (s : State) (tas : List Nat) : Avail :=
  tas.foldl (fun a t => a.and (match lineAvail s t false true with | .absent => .ready | y => y)) .ready

/-- Brural's own write asks for the wakes that it waits for. -/
def ownWakes (tas : List Nat) (c : Ctl) : Ctl := (tas.filterMap (place c)).foldl (fun c l => wantWake l c) c

/-- Do what ends with Brural's own write of lines once all of them can be written; until then their banks are asked to wake (R16, R211, R265,
R416). -/
def ownWrite (tas : List Nat) (f : State → State) (s : State) : State :=
  match ownAvail s tas with
  | .wait _ => s.onCtl (ownWakes tas)
  | _ => f s

/-- Each of Brural's own lines that wait is written once that can be done, and asks for the wakes that it waits for (R265, R416, R475). -/
def ownPump (s : State) : State :=
  s.ctl.dev.own.foldl (fun s x => match ownAvail s [x.1] with
    | .wait _ => s.onCtl (ownWakes [x.1])
    | _ => (putLine s x).onCtl (fun c => { c with dev := { c.dev with own := c.dev.own.erase x } })) s

/-- Brural writes lines of its own, now or as they can be written. -/
def ownPut (ls : List (Nat × Line × Nat)) (s : State) : State :=
  ownPump (s.onCtl (fun c => { c with dev := { c.dev with own := c.dev.own ++ ls } }))

/-- Write consecutive bytes of the preserved banks: Brural's own records (R360, R475) and boot memory (R463). -/
def putBytes (ta : Nat) (bs : List Byte) (s : State) : State := (byteLines ta bs).foldl putLine s

end Sys2Proof.Machine
end

