-- ==== Sys2Proof/Machine/Queues.lean ====
section
/-! DEFINITION. The command queues: tails, doorbells, record fetch, start and end of commands, control commands, completion records,
teardown, and the stack ports (R192, R195, R197, R295..R307, R313..R323, R330..R332). -/

namespace Sys2Proof.Machine

def qSize (c : Ctl) (q : Nat) : Nat := 2 ^ bits (reg c (movQctrl q)) 8 4
def qEn (c : Ctl) (q : Nat) : Bool := bit (reg c (movQctrl q)) 0
def qTail (c : Ctl) (q : Nat) : Nat := bits (reg c (movQtail q)) 0 16

/-- Distance of two 16-bit counters (R300). -/
def ringDist (head tail : Nat) : Nat := (tail + 65536 - head) % 65536

/-- Base of a ring whose registers lie at `lo` and `lo + 4` of a queue (Table 8-20, R334). -/
def ringBase (c : Ctl) (q lo : Nat) : MAddr :=
  let l := reg c (movQ q lo)
  let h := reg c (movQ q (lo + 4))
  ⟨bit h 31, (if bit h 31 then bits h 0 16 else bits h 0 4) * 2 ^ 32 + l.toNat⟩

/-- A queue forgets the record at head that it has fetched, or is fetching, and not started. -/
def dropRecord (q : Nat) (c : Ctl) : Ctl :=
  let x := queueOf c q
  let y := { x with fetched := none, fetchBad := none, came := none }
  setQueue q (if x.asked then (if x.came.isSome then { y with asked := false } else { y with stale := true }) else y) c

/-- A tail update, or its refusal (R302). A tail that comes back to head leaves the queue empty, and no record at head (R300). -/
def setTail (q tail : Nat) (c : Ctl) : Ctl :=
  if qSize c q < ringDist (queueOf c q).head tail then
    emit (evQueue 0x41 0 q) (raiseInt 17 (raiseBit (movErr (q / 32)) (q % 32) c))
  else
    let c1 := setReg (movQtail q) (BitVec.ofNat 32 tail) c
    if (queueOf c q).head = tail then dropRecord q c1 else c1

/-- The mover complex starts commands: running, domain 16 released, no requested reset, not past step 1 of SLEEP entry (R425, R469, R472). -/
def moversRun (c : Ctl) : Bool :=
  decide (c.dev.run = .running) && !bit (reg c pwrSt) 31 && domReleased c 16 && !devFenced c
    && (match c.pwr.entry with | some e => decide (e.step ≤ 1) | none => true)

/-- The pieces of a range of granules, at most 65,536 each (R197); `fuel` exceeds their number. -/
def pieces (fuel g n : Nat) : List (Nat × Nat) :=
  match fuel with
  | 0 => []
  | k + 1 => if n = 0 then [] else if n ≤ 65536 then [(g, n)] else (g, 65536) :: pieces k (g + 65536) (n - 65536)

/-- The canonical ranges of a range of TAs: its part in the address-zero window where R49 puts that, and the rest up to the end of the
address space (R170, R196). -/
def canonRanges (c : Ctl) (lo hi : Nat) : List (Nat × Nat) :=
  let top := min hi (2 ^ 36 - 1)
  ([(lo, min top 0xFFFFFF)].filter (fun x => decide (x.1 ≤ x.2))).map
      (fun x => (canonTa (remapNow c) x.1, canonTa (remapNow c) x.2))
    ++ [(max lo 0x1000000, top)].filter (fun x => decide (x.1 ≤ x.2))

/-- Invalidations of the granules of `[lo, hi]` at the cores given, at canonical addresses (R196, R197). -/
def sendInvs (cores : List Nat) (why : InvWhy) (lo hi : Nat) (c : Ctl) : Ctl :=
  let ps := (canonRanges c lo hi).flatMap (fun x => pieces 4097 (x.1 / 256) (x.2 / 256 + 1 - x.1 / 256))
  cores.foldl (fun c z => ps.foldl (fun c p => queueInv z ⟨0, false, 256 * p.1, p.2, why⟩ c) c) c

/-- The cores that own the caches of queue `q` (R197). -/
def queueCores (q : Nat) : List Nat := if q < 64 then [q / 4] else List.range 16

/-- inv_off is 0 (R306). -/
def Run.inv (r : Run) : Bool := !(r.word 0).testBit 8

/-- A fresh running command. -/
def newRun (ws : List Nat) (idx : Nat) (mover : Option Nat) (force : Option CmdStatus) (lfsr : Nat) : Run :=
  { words := ws, idx := idx, mover := mover, force := force, st := .ok, bad := 0, detail := 0, issued := [], wrote := [], done := 0,
    outstanding := 0, planned := 0, sent := 0, buf := [], badRows := [], lists := [], lfsr := lfsr, placed := [], dropped := [], draws := [], sizes := (0, 0), todo := [],
    going := [], jobs := 0, ent := 0, span := none, beats := 0, wait := none, fenceOn := [], stop := false, complete := force.isSome,
    recSt := 0 }

/-- What the list of a command says as the command starts (R197, R288, log 21): the range of TAs that it writes, each sixteenth element of the
rows that a COMBINE folds with its place in its draws, the number of draws, and the number of lines that a ROUTE or a COMBINE writes. -/
structure Plan where
  span : Option (Nat × Nat)
  draws : List (Nat × Nat)
  count : Nat
  lines : Nat

def Plan.none : Plan := ⟨Option.none, [], 0, 0⟩

/-- A line as it stands in its bank; `none` where it cannot be read. -/
def peekLine (s : State) (ta : Nat) : Option Line :=
  let t := canonTa (remapNow s.ctl) ta
  match addrStatus s.ctl false t, place s.ctl t with
  | none, some l =>
    let k := keyOf s.ctl l
    if (bankOf s.ctl (redirect s.ctl l.s l.x) l.b).st = .off ∨ s.store.isPoison k = true then none else some (s.store.data k)
  | _, _ => none

/-- The list entries of a ROUTE or a COMBINE as they stand, with their numbers. -/
def peekEntries (s : State) (r : Run) : List (Nat × RouteEntry) :=
  (List.range r.entries).filterMap (fun i =>
    (peekLine s (nbits (r.word 3) 0 36 + 64 * (i / 4))).map (fun d => (i, entryAt d i)))

/-- The hull of address ranges. -/
def hull (xs : List (Nat × Nat)) : Option (Nat × Nat) :=
  match xs with
  | [] => none
  | a :: rest => some (rest.foldl (fun m x => (min m.1 x.1, max m.2 x.2)) a)

/-- What SCATTER writes (R310): the rows of its indices. -/
def scatterPlan (s : State) (r : Run) : Plan :=
  let rl := nbits (r.word 3) 0 32
  let rows := (List.range r.nIdx).filterMap (fun k =>
    (peekLine s (nbits (r.word 4) 0 36 + 64 * (k / 16))).map (fun d =>
      let a := r.dstA.a + 64 * (fieldAt (leNat d) 32 (k % 16) * nbits (r.word 5) 0 32)
      (a, a + 64 * (rl - 1))))
  ⟨if r.dstSa then none else hull rows, [], 0, 0⟩

/-- What ROUTE writes (R277..R279): rows placed in expert order of the list, list entries, and the count table. -/
def routePlan (s : State) (r : Run) : Plan :=
  let mine := (peekEntries s r).filter (fun e => decide (r.eLo ≤ e.2.expert ∧ e.2.expert ≤ r.eHi))
  let lines := mine.map (fun e => let a := nbits (r.word 3) 0 36 + 64 * (e.1 / 4); (a, a))
  let table := (nbits (r.word 4) 0 36 + 64 * (r.eLo / 8), nbits (r.word 4) 0 36 + 64 * (r.eHi / 8))
  let rows := (mine.foldl (fun (a : Tab Nat × List (Nat × Nat)) e =>
    let n := tabGet 0 a.1 e.2.expert
    if e.2.valid && decide (e.2.token < r.tokens ∧ n < r.capacity) then
      let d := nbits (r.word 2) 0 36 + 64 * (e.2.expert * r.q32 5 1 + n * r.rowLines)
      (tabPut 0 e.2.expert (n + 1) a.1, a.2 ++ [(d, d + 64 * (r.rowLines - 1))])
    else a) ([], [])).2
  ⟨hull (table :: (lines ++ rows)), [], 0, rows.length * r.rowLines + mine.length + countLines r⟩

/-- A destination line of a COMBINE: its TA, the key of its first draws, and its elements. -/
structure DrawLine where
  ta : Nat
  key : Nat
  n : Nat

/-- Insert a line by destination TA, after those of the same TA: folds into one line draw in list order (log 21). -/
def insertDraw (x : DrawLine) (l : List DrawLine) : List DrawLine :=
  match l with
  | [] => [x]
  | y :: rest => if x.ta < y.ta then x :: y :: rest else y :: insertDraw x rest

/-- The destination lines that list entry number `e` of a COMBINE folds into. -/
def drawLines (c : Ctl) (r : Run) (e : Nat) (x : RouteEntry) : List DrawLine :=
  let (src, dst) := combineRows r x
  let ss := rowSize c src
  let ds := rowSize c dst
  (List.range (rowLinesOut r.rowLines ss ds)).map (fun k => ⟨dst + 64 * k, drawKey e (k * (64 / ds) / 16), lineElems r.rowLines ss ds k⟩)

/-- What COMBINE writes, and its draws, line by line in increasing destination TA (R252, R281, R288). -/
def combinePlan (s : State) (r : Run) : Plan :=
  let ls := ((peekEntries s r).filter (fun e => combineTakes r e.2)).flatMap (fun e => drawLines s.ctl r e.1 e.2)
  let span := hull (ls.map (fun x => (x.ta, x.ta)))
  if r.rnd then
    let (ds, n) := (ls.foldl (fun l x => insertDraw x l) []).foldl
      (fun (a : List (Nat × Nat) × Nat) x =>
        (a.1 ++ (List.range (ceilDiv x.n 16)).map (fun g => (x.key + g, a.2 + 16 * g)), a.2 + x.n)) ([], 0)
    ⟨span, ds, n, ls.length⟩
  else ⟨span, [], 0, ls.length⟩

/-- The plan of a command whose list names the lines that it writes. -/
def planOf (s : State) (ws : List Nat) : Plan :=
  let r := newRun ws 0 none none 0
  if r.op = 4 then scatterPlan s r else if r.op = 5 then routePlan s r else if r.op = 6 then combinePlan s r else Plan.none

/-- A command starts (R296, R301): head advances, its whole-command checks are made, its invalidations are sent and its draws are taken
(R197, R252, R288). `force` is a status it already has: a record that could not be fetched, or that a teardown discards, has not started
(R303, R330). -/
def startRun (q : Nat) (ws : List Nat) (mover : Option Nat) (force : Option CmdStatus) (plan : Plan) (c : Ctl) : Ctl :=
  let x := queueOf c q
  let r0 := newRun ws x.head mover none 0
  let st : Option CmdStatus := match force with | some s => some s | none => if refusedCommand c r0 then some .unsupported else none
  let draws :=
    if st.isSome || !r0.rnd then 0
    else if r0.op = 7 then nbits (r0.word 3) 0 32 * viewLen r0.vty
    else if r0.op = 9 then nbits (r0.word 3) 0 32
    else plan.count
  let seed := lfsrOfQ c q
  let r := { newRun ws x.head (if st.isSome then none else mover) st seed with
    planned := plan.lines
    stop := decide (force = some .aborted)
    draws := plan.draws.foldl (fun t d => tabIns d.1 (lfsrAfter d.2 seed) t) [] }
  let c0 := setQueue q { x with head := (x.head + 1) % 65536, fetched := none, fetchBad := none, passed := 0, run := some r } c
  let c1 := if ws = [] ∨ force = some .aborted then c0 else emit (evQueue 0x38 r0.op q) c0
  let c2 := if draws = 0 then c1 else drawQ q draws c1
  let c3 := if r0.op = 7 ∧ force.isNone ∧ st.isSome ∧ badRecord ws = false ∧ packUneven c r0 = true ∧ fennelOn c = true then
      emit ⟨0x26, nbits (r0.word 3) 0 32, 1, some (queueZone q), none, none⟩ c2 else c2
  let c4 := if force = some .aborted then emit (evQueue 0x43 0 q) c3 else c3
  match if st.isSome || !r.inv then none else (writeSpan c r).or plan.span with
  | none => c4
  | some x => sendInvs (queueCores q) (.command q) x.1 x.2 c4

/-- What a queue starts by itself: the aborted records of a teardown (R330), a record that could not be fetched (R303), and a reserved
opcode (R306). -/
def autoStart (q : Nat) (c : Ctl) : Ctl :=
  let x := queueOf c q
  if x.run.isSome then c
  else
    match x.tdTail with
    | some t =>
      if x.head = t then dropRecord q c
      else
        match x.fetched, x.fetchBad with
        | some ws, _ => startRun q ws none (some .aborted) Plan.none c
        | none, some _ => startRun q [] none (some .aborted) Plan.none c
        | none, none => c
    | none =>
      if qEn c q && moversRun c && decide (x.head ≠ qTail c q) then
        match x.fetchBad, x.fetched with
        | some st, _ => startRun q [] none (some st) Plan.none c
        | none, some ws =>
          if dataOp (ws.getD 0 0 % 256) || ctrlOp (ws.getD 0 0 % 256) then c else startRun q ws none (some .unsupported) Plan.none c
        | none, none => c
      else c

/-- A fetch of record head is due (R301, R330). -/
def fetchDue (c : Ctl) (q : Nat) : Bool :=
  let x := queueOf c q
  x.fetched.isNone && x.fetchBad.isNone && !x.asked &&
    (match x.tdTail with
    | some t => decide (x.head ≠ t)
    | none => qEn c q && moversRun c && decide (x.head ≠ qTail c q))

/-- The eight words of a record. -/
def recordWords (bs : List Byte) : List Nat := (List.range 8).map (fun i => leNat ((bs.drop (8 * i)).take 8))

/-- A record has been fetched, or its fetch has failed (R303, R306). -/
def recordCame (q : Nat) (st : Status) (bs : List Byte) (c : Ctl) : Ctl :=
  let x := queueOf c q
  autoStart q (setQueue q (if st = .ok then { x with fetched := some (recordWords bs) } else { x with fetchBad := some st.toCmd }) c)

/-- The status of a stack or host response code, with the poison of its line (R323). -/
def saStatus (code : Nat) (poison : Bool) : Status := if 2 ≤ code then .absent else if code = 1 ∨ poison = true then .poison else .ok

/-- An engine asks for the line at `ta` in tensor memory (R44, R73, R541, R544): `none` while its region changes; else a status that the line has
from its address alone, counted where it has no storage, or the access under way. -/
def engineIssue (owner : Owner) (qos ta : Nat) (write : Bool) (acc : Acc) (c : Ctl) : Option (Option Status × Ctl) :=
  let absent (c : Ctl) : Ctl := emit ⟨0x03, 1, 0, none, none, none⟩ c
  if 2 ^ 36 ≤ ta then some (some .absent, absent c)
  else
    let t := canonTa (remapNow c) ta
    if regionBusy c t then none
    else
      match addrStatus c write t with
      | some st => some (some st, if st = .absent then absent c else c)
      | none => some (none, pushOp owner t acc false qos (lovSpend 4 (accEnergy c 1 1 t acc) c))

/-- RECORD_FETCH (R301, R303): the queue's sequencer asks for record head, and takes it once it has come; in SA over the stack port or outbound
HP, under tag `tag` where it is free, when the stack or the host takes the request (R84, R123, log 20). In TA it competes with the queue's QoS
(DESIGN CHOICE, log 126). -/
def fetchRecord (q : Nat) (rdy : Bool) (tag : Nat) (c : Ctl) : Ctl :=
  let x := queueOf c q
  if 72 ≤ q then c
  else
    match x.came with
    | some res => recordCame q res.st res.data (setQueue q { x with asked := false, came := none } c)
    | none =>
      if fetchDue c q then
        let b := ringBase c q 0
        let a := b.a + 64 * (x.head % qSize c q)
        let ask (c : Ctl) : Ctl := setQueue q { queueOf c q with asked := true } c
        if b.sa then
          if 2 ^ 48 ≤ a then recordCame q .absent [] (emit ⟨0x03, 1, 0, none, none, none⟩ c)
          else
            let t := if rdy ∧ tag < 1024 ∧ tagFree c (saPortOf a) tag = true then some tag else none
            ((saSend q fetchKey a false zeroLine fullMask false t c).map (fun c => ask (paySa c))).getD c
        else
          match engineIssue (.record q) (queueQos c q) a false .read c with
          | none => c
          | some (some st, c1) => recordCame q st [] c1
          | some (none, c1) => ask c1
      else c

/-- The checks or the plan of a command that has not started need the attributes of a region in change: it starts under the new ones (R73,
R213, log 143). -/
def startBusy (s : State) (ws : List Nat) : Bool :=
  let r := newRun ws 0 none none 0
  if r.op = 7 then regionBusy s.ctl (canonTa (remapNow s.ctl) r.dstA.a)
  else if r.op = 9 then !rowsStill s.ctl r.src.a r.dstA.a
  else if r.op = 6 then
    (peekEntries s r).any (fun e => combineTakes r e.2 && !rowsStill s.ctl (combineRows r e.2).1 (combineRows r e.2).2)
  else false

/-- A queue is ready for a mover (R297). -/
def qReady (c : Ctl) (q : Nat) (x : Queue) : Bool :=
  x.run.isNone && x.tdTail.isNone && qEn c q && decide (x.head ≠ qTail c q) &&
    (match x.fetched with | some ws => dataOp (ws.getD 0 0 % 256) | none => false)

def qosOfQueue (c : Ctl) (q : Nat) (x : Queue) : Nat := min 15 (queueQos c q + x.passed / 64)

/-- The ready queue that a free mover takes: highest effective QoS, then the next in round robin (R297); not one whose command waits for a
region's attributes. -/
def pickQueue (s : State) : Option Nat :=
  let c := s.ctl
  let rs := c.mov.q.filter (fun p => qReady c p.1 p.2 && !startBusy s (p.2.fetched.getD []))
  let key (p : Nat × Queue) : Nat := 1000 * qosOfQueue c p.1 p.2 + (72 - (p.1 + 72 - c.mov.rr) % 72)
  (rs.foldl (fun (m : Option (Nat × Queue)) p => match m with
    | none => some p
    | some x => if key x < key p then some p else some x) none).map Prod.fst

/-- MOVER_TAKE (R297), at a state of memory that the lists of the command are read in. -/
def moverTake (m : Nat) (s : State) (c : Ctl) : Ctl :=
  let busy := c.mov.q.any (fun p => match p.2.run with | some r => decide (r.mover = some m) | none => false)
  if m < 24 ∧ busy = false ∧ moversRun c = true then
    match pickQueue s with
    | none => c
    | some q =>
      match (queueOf c q).fetched with
      | none => c
      | some ws =>
        if lovFull c 4 1 then lovTurnedAway 4 c else
        let aged := { c with mov := { c.mov with rr := (q + 1) % 72, q := c.mov.q.map (fun p =>
          if p.1 ≠ q ∧ qReady c p.1 p.2 = true then (p.1, { p.2 with passed := p.2.passed + 1 }) else p) } }
        startRun q ws (some m) none (planOf s ws) aged
  else c

/-- The sequencer takes the control command at the head of queue `q` (R296). -/
def startCtrl (q op : Nat) (f : Run → Ctl → Ctl) (c : Ctl) : Ctl :=
  let x := queueOf c q
  match x.fetched with
  | none => c
  | some ws =>
    if q < 72 ∧ ws.getD 0 0 % 256 = op ∧ x.run.isNone = true ∧ x.tdTail.isNone = true ∧ qEn c q = true ∧ moversRun c = true
        ∧ x.head ≠ qTail c q then
      let c1 := startRun q ws none none Plan.none c
      match (queueOf c1 q).run with
      | some r => if r.force.isSome then c1 else f r c1
      | none => c1
    else c

/-- A control command ends with a status. -/
def ctrlDone (q : Nat) (st : CmdStatus) (c : Ctl) : Ctl :=
  modRun q (fun r => { r with complete := true, force := if st = .ok then none else some st }) c

def ctrlBarrier (r : Run) : Nat := nbits (r.word 0) 32 10

/-- NOP (R315). -/
def qNop (q : Nat) (c : Ctl) : Ctl := startCtrl q 0 (fun _ c => ctrlDone q .ok c) c

/-- QUEUE_ARRIVE (R315, R348): Sorrel applies nothing once its state is uncorrectable (R356). While the Sorrel domain is in reset it is
applied at once, to a barrier that the reset has disarmed (DESIGN CHOICE, log 153). -/
def qArrive (q : Nat) (c : Ctl) : Ctl :=
  if c.srl.dead then c
  else startCtrl q 0x10 (fun r c =>
    let (st, c1) := barSignal (ctrlBarrier r) (0x40 + q) 0x08 c
    ctrlDone q (if st = .ok then .ok else .broken) c1) c

/-- QUEUE_WAIT (R345, R348), while the Sorrel domain is in reset too (DESIGN CHOICE, log 153). -/
def qWait (q : Nat) (c : Ctl) : Ctl :=
  if c.srl.dead then c
  else startCtrl q 0x11 (fun r c =>
    let n := ctrlBarrier r
    let pb := (r.word 0).testBit 48
    let b := barOf c n
    if b.frozen then ctrlDone q .broken c
    else
      let c1 := emit (evQ 0x50 0x09) c
      if pb ≠ decide (b.ph % 2 = 1) then ctrlDone q .ok c1
      else modRun q (fun r => { r with wait := some (n, pb) }) { c1 with srl := { c1.srl with qw := tabIns q (n, pb) c1.srl.qw } }) c

/-- INVAL (R315). -/
def qInval (q : Nat) (c : Ctl) : Ctl :=
  startCtrl q 0x12 (fun r c =>
    let cores := (List.range 16).filter (fun z => (r.word 0).testBit (32 + z))
    let c1 := if (r.word 0).testBit 48 then cores.foldl (fun c z => queueInv z ⟨0, true, 0, 1, .inval q⟩ c) c
      else
        let base := nbits (r.word 1) 0 36
        sendInvs cores (.inval q) base (base + 256 * nbits (r.word 3) 0 32 - 1) c
    ctrlDone q .ok c1) c

/-- The sibling queues that a FENCE names (Table 8-9). -/
def siblings (q mask : Nat) : List Nat :=
  let base := if q < 64 then q / 4 * 4 else 64
  ((List.range (if q < 64 then 4 else 8)).filter mask.testBit).map (fun k => base + k) |>.filter (fun x => decide (x ≠ q))

/-- FENCE (R315): it starts, or it completes once every command it names has ended. -/
def qFence (q : Nat) (c : Ctl) : Ctl :=
  let ended (c : Ctl) (p : Nat × Nat) : Bool := match (queueOf c p.1).run with
    | some r => decide (r.idx ≠ p.2)
    | none => true
  match (queueOf c q).run with
  | some r => if r.op = 0x13 ∧ r.force.isNone ∧ r.stop = false ∧ r.fenceOn.all (ended c) then ctrlDone q .ok c else c
  | none =>
    startCtrl q 0x13 (fun r c =>
      let on := (siblings q (nbits (r.word 0) 32 8)).filterMap (fun x =>
        (queueOf c x).run.map (fun y => (x, y.idx)))
      if on = [] then ctrlDone q .ok c else modRun q (fun r => { r with fenceOn := on }) c) c

/-- LP_OUT_BEAT (R125, R313): the next beat of a SEND of queue `q` on link `l`, against a credit. -/
def lpOut (l q : Nat) (c : Ctl) : Ctl :=
  match (queueOf c q).run with
  | none => c
  | some r =>
    let n := tabGet 0 c.mov.lpCredit l
    let b := r.beats
    let lines := r.total c
    let idx := (List.range 2).map (fun i => 2 * b + i) |>.filter (fun i => decide (i < lines))
    let rs := idx.map (fun i => tabFind r.buf (rKey i))
    if r.op = 10 ∧ r.force.isNone ∧ r.stop = false ∧ nbits (r.word 0) 40 4 = l ∧ 2 * b < lines ∧ 0 < n ∧ rs.all Option.isSome = true then
      let xs := rs.filterMap id
      let e : Edge := .lpOut l (nbits (r.word 0) 32 8) (nbits (r.word 0) 48 16) (nbits (r.word 2) 0 32 + 128 * b)
        ((List.range 2).map (fun i => decide (i < xs.length))) ((List.range 2).map (fun i => match xs[i]? with | some x => decide (x.st ≠ .ok) | none => false))
        ((List.range 2).map (fun i => match xs[i]? with | some x => if x.st = .ok then x.data else zeroLine | none => zeroLine))
      let c1 := modRun q (fun r =>
        let r1 := xs.foldl (fun r x => r.lineDone x.st.toCmd) r
        { r1 with beats := b + 1, buf := idx.foldl (fun t i => tabDel (rKey i) t) r1.buf }) c
      emit { evQueue 0x3B 1 q with w := xs.length }
        (drive e { c1 with mov := { c1.mov with lpCredit := tabPut 0 l (n - 1) c1.mov.lpCredit } })
    else c

/-- LP_OUT_CREDIT (R125): at most 255 are held. -/
def lpCreditIn (l : Nat) (c : Ctl) : Ctl :=
  if linkOn c l then { c with mov := { c.mov with lpCredit := tabPut 0 l (min 255 (tabGet 0 c.mov.lpCredit l + 1)) c.mov.lpCredit } } else c

/-- The status of a command (R317). -/
def Run.status (r : Run) : CmdStatus := r.force.getD r.st

def CmdStatus.code (s : CmdStatus) : Nat :=
  match s with
  | .ok => 0
  | .poison => 1
  | .absent => 2
  | .fenced => 3
  | .unsupported => 4
  | .aborted => 5
  | .broken => 6

/-- COMMAND_END (R192): the mover is free, the queue may go on with its next command (R297), and the completion record is owed (R316). A stopped
INVAL too waits for its invalidations (R192, R331; log 127). -/
def commandEnd (q : Nat) (c : Ctl) : Ctl :=
  let x := queueOf c q
  match x.run with
  | none => c
  | some r =>
    if runComplete c r = true ∧ invsDone c q = true then
      autoStart q (emit (evQueue 0x39 r.status.code q) (setQueue q { x with run := none, fin := x.fin ++ [{ r with mover := none }] } c))
    else c

/-- The 16 bytes of a completion record (Table 8-10). -/
def completionBytes (c : Ctl) (q : Nat) (r : Run) : List Byte :=
  let detail := if r.op = 5 ∨ r.op = 6 then r.detail else if r.op = 3 ∨ r.op = 4 then r.badRows.length else 0
  leBytes 2 (nbits (r.word 0) 16 16) ++ leBytes 1 r.op ++ leBytes 1 r.status.code ++ leBytes 4 r.bad ++ leBytes 4 detail
    ++ leBytes 2 r.idx ++ leBytes 2 (r.idx / qSize c q % 2)

/-- The completion record has been accepted: done advances, and MOV_DONE is raised if asked (R316). -/
def recordWritten (q : Nat) (r : Run) (c : Ctl) : Ctl :=
  let x := queueOf c q
  let c1 := setQueue q { x with fin := x.fin.drop 1, done := (x.done + 1) % 65536 } c
  if (r.word 0).testBit 9 then raiseInt 15 c1 else c1

/-- Change the oldest ended command of queue `q`. -/
def modFin (q : Nat) (f : Run → Run) (c : Ctl) : Ctl := setQueue q { queueOf c q with fin := (queueOf c q).fin.modifyHead f } c

/-- The stage of a completion record. -/
def recStage (q n : Nat) (c : Ctl) : Ctl := modFin q (fun r => { r with recSt := n }) c

/-- The line address of a record in a completion ring, the bytes of the line that it fills, and their mask (R300, R316). -/
def recordLine (c : Ctl) (q : Nat) (r : Run) : MAddr × Line × Nat :=
  let b := ringBase c q 8
  let a := b.a + 16 * (r.idx % qSize c q)
  let o := a % 64
  ({ b with a := a - o }, List.replicate o 0 ++ completionBytes c q r ++ List.replicate (48 - o) 0, (2 ^ 16 - 1) <<< o)

/-- A completion record in SA (R316): one masked write of 16 bytes, whose mask goes with its data beats (log 22). -/
def saRecord (q : Nat) (r : Run) (a : Nat) (d : Line) (mask : Nat) (c : Ctl) : Ctl :=
  if 2 ^ 48 ≤ a then recordWritten q r (emit ⟨0x03, 1, 0, none, none, none⟩ c)
  else if r.recSt = 0 then
    ((saSend q recordKey a true d mask false (saTagFree c (saPortOf a)) c).map (fun c => recStage q 3 (paySa c))).getD c
  else c

/-- COMPLETION_RECORD (R316): the oldest ended command's record goes on its way, or has been accepted; one whose address or port refuses it
counts as accepted (log 128). In TA it competes with the queue's QoS (DESIGN CHOICE, log 126). -/
def writeCompletion (q : Nat) (c : Ctl) : Ctl :=
  match (queueOf c q).fin with
  | [] => c
  | r :: _ =>
    let (x, d, mask) := recordLine c q r
    if r.recSt = 4 then recordWritten q r c
    else if x.sa then saRecord q r x.a d mask c
    else if r.recSt ≠ 0 then c
    else
      match engineIssue (.completion q) (queueQos c q) x.a true (.write d mask false) c with
      | none => c
      | some (some _, c1) => recordWritten q r c1
      | some (none, c1) => recStage q 3 c1

def saDrop (x : SaReq) (c : Ctl) : Ctl := { c with mov := { c.mov with sa := c.mov.sa.filter (fun r => decide (r ≠ x)) } }

/-- What queue `q`'s request of key `key` in SA returned goes to its owner: a record fetch, a completion record, or a line of the command. -/
def saCame (q key : Nat) (write : Bool) (res : LineRes) (c : Ctl) : Ctl :=
  if key = fetchKey then recordRes ⟨.record q, 0, .read, false, 0, 0, 0, none, false, false, false, 0⟩ res c
  else if key = recordKey then recStage q 4 c
  else modRun q (Run.got write key res) c

/-- The line that read beats make up: each has its part of the line by its index (R92, R121). -/
def saLine (p : SaPort) (got : List (Nat × Status × List Byte)) : Line :=
  (List.range (lineBeats p)).flatMap (fun i => match got.find? (fun b => decide (b.1 = i)) with
    | some b => b.2.2
    | none => List.replicate (64 / lineBeats p) 0)

/-- A read beat comes for request `x`: the last of its beats completes the line with the status of highest precedence and the bytes of all (R121,
R323). -/
def readBeat (x : SaReq) (last : Bool) (beat : Nat × Status × List Byte) (c : Ctl) : Ctl :=
  let all := x.got ++ [beat]
  if !last then { c with mov := { c.mov with sa := c.mov.sa.map (fun y => if y = x then { x with got := all } else y) } }
  else
    let worstSt := all.foldl (fun a b => worst a b.2.1) .ok
    let d := if worstSt = .ok then saLine x.port all else zeroLine
    saCame x.q x.key false { resData d false with st := worstSt } (saDrop x c)

/-- STACK_READ_BEAT (R121, R123, R323): it spends a credit that Brural gave; on outbound HP it carries half a line. -/
def stackRead (p : SaPort) (tag code : Nat) (b : RsBeat) (poison : Bool) (c : Ctl) : Ctl :=
  let n := tabGet 0 c.mov.saCredit (saIndex p)
  match if n = 0 then none else saFind c p tag false with
  | none => c
  | some x =>
    readBeat x b.last (b.bidx, saStatus code poison, (List.range (64 / lineBeats p)).map (fun i => b.data.getD i 0))
      { c with mov := { c.mov with saCredit := tabPut 0 (saIndex p) (n - 1) c.mov.saCredit } }

/-- STACK_WRITE_RESPONSE (R323): once every data beat of the write has been sent (R123). -/
def stackWrote (p : SaPort) (tag code : Nat) (c : Ctl) : Ctl :=
  match if c.mov.wd.any (fun b => decide (b.port = p ∧ b.tag = tag)) then none else saFind c p tag true with
  | none => c
  | some x =>
    saCame x.q x.key true (resSt (saStatus code false)) (saDrop x c)

/-- The mover complex follows the stacks' HOT levels: it has power and is not in reset (R333, R430). -/
def pacesRun (c : Ctl) : Bool := baseLogicOn c && !domInReset c 16

/-- Time HOT so far of stack `s`: the register's count and the present stretch (R321). -/
def hotUs (c : Ctl) (s : Nat) : Nat :=
  let n := bits (reg c (movPaceSt s)) 0 24
  if c.pin.hot.contains s && pacesRun c then min (2 ^ 24 - 1) (n + (c.rtc - tabGet 0 c.mov.hotSince s)) else n

/-- Store the time HOT so far and start counting anew. -/
def foldHot (s : Nat) (c : Ctl) : Ctl :=
  let n := hotUs c s
  { modReg (movPaceSt s) (fun v => setBits v 0 24 n) c with mov := { c.mov with hotSince := tabPut 0 s c.rtc c.mov.hotSince } }

def setRate (s rate : Nat) (c : Ctl) : Ctl := { c with pin := { c.pin with rate := tabPut 0 s (rate % 256) c.pin.rate } }

/-- The mover complex takes note of the HOT levels anew, as it leaves reset or SLEEP: the present rate of every HOT stack (Table 8-19), and
the time from now. -/
def followHot (c : Ctl) : Ctl :=
  let c1 := c.pin.hot.foldl (fun c s => modReg (movPaceSt s) (fun v => setBits v 24 8 (tabGet 0 c.pin.rate s)) c) c
  latchPaces { c1 with
    mov := { c1.mov with hotSince := c1.pin.hot.foldl (fun t s => tabPut 0 s c1.rtc t) [] }
    lov := { c1.lov with hot := c1.pin.hot } }

/-- STACK_HOT_RISE (R319, R321): the pace advisory. -/
def hotRise (s rate : Nat) (c : Ctl) : Ctl :=
  if s < 20 ∧ c.pin.hot.contains s = false then
    let c1 := setRate s rate { c with
      pin := { c.pin with hot := c.pin.hot ++ [s] }
      mov := { c.mov with hotSince := tabPut 0 s c.rtc c.mov.hotSince } }
    if pacesRun c then
      emit (evQ 0x3D s) (raiseInt 18 (raiseBit movHotLat s (modReg (movPaceSt s) (fun v => setBits v 24 8 rate)
        { c1 with lov := { c1.lov with hot := insertNew s c1.lov.hot } })))
    else c1
  else c

/-- STACK_HOT_FALL (R319, R321, R447). -/
def hotFall (s : Nat) (c : Ctl) : Ctl :=
  if c.pin.hot.contains s then
    { (if pacesRun c then foldHot s c else c) with
      pin := { c.pin with hot := c.pin.hot.filter (fun x => decide (x ≠ s)) }
      lov := { c.lov with hot := c.lov.hot.filter (fun x => decide (x ≠ s)) } }
  else c

/-- SPS_RATE_CHANGE (R319, R321). -/
def rateChange (s rate : Nat) (c : Ctl) : Ctl :=
  let c1 := setRate s rate c
  if c.pin.hot.contains s && pacesRun c then modReg (movPaceSt s) (fun v => setBits v 24 8 rate) c1 else c1

/-- A write to MOV_SQ (R322): a cleared bit ends the quiesce. -/
def quiesceWrite (v : Word) (c : Ctl) : Ctl :=
  let c1 := writeStored movSq v c
  { c1 with mov := { c1.mov with sqIdle := c1.mov.sqIdle.filter (fun s => bit (reg c1 movSq) s) } }

/-- STACK_QUIESCED (R322). -/
def stackQuiet (s : Nat) (c : Ctl) : Ctl :=
  if s < 20 ∧ bit (reg c movSq) s = true ∧ saOut c (.sp s) = [] then { c with mov := { c.mov with sqIdle := insertNew s c.mov.sqIdle } } else c

/-- A queue is stopped for a teardown or a fence (R330, R331, R469): its running command issues no further line, a queue wait is withdrawn
from Sorrel, unless that has stopped for good (R356), and the tail is that of this moment. -/
def stopQueue (q : Nat) (c : Ctl) : Ctl :=
  let x := queueOf c q
  let c1 := setQueue q { x with
    tdTail := some (qTail c q)
    run := x.run.map (fun r => { r with stop := true, force := some .aborted, wait := none }) } c
  let c2 := if c1.srl.dead then c1 else { c1 with srl := { c1.srl with
    qw := tabDel q c1.srl.qw
    rel := c1.srl.rel.filter (fun r => match r.kind with | .queue y _ => decide (y ≠ q) | _ => true) } }
  autoStart q (match x.run with | some r => if r.stop then c2 else emit (evQueue 0x43 0 q) c2 | none => c2)

/-- Teardown of context `x` starts (R330). -/
def tdStart (x : Nat) (c : Ctl) : Ctl :=
  let qs := (List.range 72).filter (fun q => decide (bits (reg c (movQctrl q)) 24 8 = x))
  let c1 := qs.foldl (fun c q => stopQueue q (modReg (movQctrl q) (fun v => setBit v 0 false) c)) c
  let ws := (c1.lnd.win.filter (fun p => p.2.isOpen)).map Prod.fst |>.filter (fun w => decide (winCtx c w = x))
  let c2 := ws.foldl (fun c w => closeWin w c) c1
  emit ⟨0x42, 1, 0, none, none, none⟩ (modReg movTdSt (fun v => setBits (setBit v 31 true) 0 8 x)
    { c2 with mov := { c2.mov with td := some ⟨x, qs⟩ } })

/-- A write to MOV_TD (R330): every one while a teardown runs is refused and counted; else go = 1 starts one. -/
def tdWrite (v : Word) (c : Ctl) : Ctl :=
  if c.mov.td.isSome then bumpSat movTdSt 16 8 c
  else if bit v 8 then tdStart (bits v 0 8) c
  else c

/-- A stopped queue has written every record (R330, R471). -/
def queueStopped (c : Ctl) (q : Nat) : Bool :=
  let x := queueOf c q
  x.run.isNone && x.fin.isEmpty && !x.asked && (match x.tdTail with | some t => decide (x.head = t) | none => true)

/-- A request that a fence let complete has completed (R471). -/
def reqDrained (r : Req) : Bool :=
  if r.verdict = .fenced then r.discard || r.answeredAll else (r.discard && (r.complete || r.verdict ≠ .serve)) || r.answeredAll

/-- Domain `d` is drained (R471). -/
def drained (c : Ctl) (d : Nat) : Bool :=
  if d < 16 then
    (c.port.reqs.filter (fun r => decide (portCore r.port = some d))).all reqDrained && (chvOf c d).wc.isEmpty
      && (c.pin.rstAck.contains d || isolated c d)
  else if d = 16 then (List.range 72).all (queueStopped c)
  else if d = 17 then c.lnd.land.all (fun x => x.out.isSome)
  else true

/-- The whole device is drained (R472). -/
def allDrained (c : Ctl) : Bool :=
  (List.range 20).all (fun d => domInReset c d || drained c d)
    && (c.port.reqs.filter (fun r => decide (r.port = .hp))).all reqDrained

/-- TEARDOWN_DONE (R330). -/
def tdDone (c : Ctl) : Ctl :=
  match c.mov.td with
  | none => c
  | some t =>
    if t.queues.all (queueStopped c) then
      let c1 := t.queues.foldl (fun c q => setQueue q { queueOf c q with tdTail := none } c) c
      raiseInt 16 (modReg movTdSt (fun v => setBit v 31 false) { c1 with mov := { c1.mov with td := none } })
    else c

/-- QUEUE_DOORBELL (R304, R305): c_qdb_rdy is 0 while two wait, or the zone is fenced or in reset. -/
def doorbell (z j tail seq : Nat) (c : Ctl) : Ctl :=
  if z < 16 ∧ j < 4 ∧ coreOpen c z = true ∧ (chvOf c z).dbs.length < 2 then
    let x := chvOf c z
    emit (evQueue 0x40 0 (4 * z + j)) (flushWhere z 4 (fun _ => true)
      (setChv z { x with dbs := x.dbs ++ [⟨4 * z + j, tail % 65536, seq % 256, none, c.pc⟩] } c))
  else noteWake 0 (114 + z) c

/-- DOORBELL_APPLY (R302, R305): the doorbell registered first, once its earlier writes have all retired; it waits while the movers are in
reset (log 23). -/
def doorbellApply (z : Nat) (c : Ctl) : Ctl :=
  let x := chvOf c z
  let first := x.dbs.foldl (fun (m : Option Doorbell) d => match d.reg, m with
    | none, _ => m
    | some _, none => some d
    | some n, some y => if n < y.reg.getD 0 then some d else m) none
  match first with
  | none => c
  | some d =>
    if writesRetired c z (d.reg.getD 0) && !domInReset c 16 then
      setTail d.q d.tail (setChv z { x with dbs := x.dbs.filter (fun y => decide (y.reg ≠ d.reg)) } c)
    else c

/-- A write to MOV_QTAIL[q] (R302). -/
def tailWrite (q : Nat) (v : Word) (c : Ctl) : Ctl := setTail q (bits v 0 16) c

end Sys2Proof.Machine
end

