-- ==== Sys2Proof/Machine/Attr.lean ====
section
/-! DEFINITION. Region attributes and their clear, the address-zero remap, and the reseeds of Fennel's streams (R14, R52, R67..R73, R222,
R253, R257..R260). -/

namespace Sys2Proof.Machine

/-- Some spread group has policy OFF; a group without banks ignores its field (R70, R415). -/
def spreadOff (c : Ctl) : Bool :=
  (List.range 16).any (fun z => (fitted c).any (fun t => decide (0 < kOf c t) && decide (policyOf c z t false = 3)))

/-- The class default of the pool of region `n` that the load applied (R14, R463, R466). -/
def classDefault (c : Ctl) (n : Nat) : Nat :=
  if n < 4096 then (if bits (reg c brlCfg) 26 2 = 1 ∧ guardedOn c = true then 1 else 0) else 0

/-- The class that a write of `x` to region `n` asks for; `none` when R70 leaves it unchanged. -/
def classFor (c : Ctl) (n x : Nat) : Option Nat :=
  let y := if x < 2 then x else classDefault c n
  if y = 0 then some 0
  else if 4096 ≤ n ∨ guardedOn c = false then some 0
  else if spreadOff c then none
  else some 1

/-- The format code that a write takes (R222): without Fennel the NM and MX codes are reserved (R223, R466). -/
def fmtFor (c : Ctl) (x : Nat) : Nat := if (geoOf x).isSome && (fennelOn c || decide (x < 0x40)) then x else 0

/-- The entry word after a write of `v`, and whether R70 refused its class. -/
def entAfter (c : Ctl) (n : Nat) (v : Word) : Word × Bool :=
  let cur := reg c (rgnEnt n)
  let cl := classFor c n (bits v 8 2)
  (setBits (setBits cur 16 8 (fmtFor c (bits v 16 8))) 8 2 (cl.getD (bits cur 8 2)), cl.isNone)

/-- The logical slices and banks of a region: all banks of its pool in its slices (R58..R60). -/
def regionBanks (c : Ctl) (n : Nat) : List (Nat × Nat) :=
  if n < 4096 then (List.range 128).flatMap (fun s => (spreadBankList c).map (fun b => (s, b)))
  else
    let z := (n - 4096) / 256
    (List.range 8).flatMap (fun i => (nearBankList c z).map (fun b => (8 * z + i, b)))

/-- The physical slices that hold lines of bank `b` of logical slice `s`. -/
def slicesOf (c : Ctl) (s : Nat) : List Nat :=
  let m := migOf c (s / 8)
  if m.built ∧ m.slice = s then [committed c s, m.spare] else [committed c s]

/-- Ask for the wake of a bank in RET. -/
def wakeBank (p b : Nat) (c : Ctl) : Ctl :=
  let x := bankOf c p b
  if x.st = .ret then setBank p b { x with want := true } c else c

/-- Wake the banks of a region that are in RET (R73). -/
def wakeRegion (n : Nat) (c : Ctl) : Ctl :=
  (regionBanks c n).foldl (fun c sb => (slicesOf c sb.1).foldl (fun c p => wakeBank p sb.2 c) c) c

/-- As the write arrives, the WC entries that lie in region `n` leave for their slices, counted as an overlap: R182 names no trigger of this kind
(log 98). -/
def flushRegion (n : Nat) (c : Ctl) : Ctl :=
  (List.range 16).foldl (fun c z => flushWhere z 2 (fun e => decide (regionOf e.ta = some n)) c) c

/-- A write to RGN_ENT[n] (R68..R73): it completes at once unless it changes class or fmt; then the region's clear begins, and the write
waits for it, with every register access that follows it (R39). -/
def rgnWrite (a : Agent) (n : Nat) (v : Word) (c : Ctl) : Ctl :=
  if 8192 ≤ n ∨ regionPool c n = 2 then c
  else
    let (w, refused) := entAfter c n v
    let c1 := if refused then latchPwr 3 c else c
    if w = reg c (rgnEnt n) then c1
    else
      let c2 := flushRegion n { c1 with
        region := some ⟨n, w, c1.port.serial⟩
        dev := { c1.dev with hub := .region a } }
      wakeRegion n c2

/-- Fold line `j` of a FOLD or a COMBINE (R281, R312). -/
def jobOf (c : Ctl) (r : Run) (j : Nat) : Option Job :=
  if r.op = 9 then some (foldJob c j r)
  else (r.going.find? (fun p => decide (p.1 = j))).map Prod.snd

/-- What source line `k` of a command means depends on the format of region `n` (R239, R312): a unit of an UNPACK, or a source line of a fold
whose row or destination lies there. -/
def readsBy (c : Ctl) (n : Nat) (r : Run) (k : Nat) : Bool :=
  let hit (ta : Nat) : Bool := decide (regionOf (canonTa (remapNow c) ta) = some n)
  if r.op = 8 then hit (r.src.a + 64 * k)
  else if r.op = 6 ∨ r.op = 9 then
    match jobOf c r (k / 2) with
    | some j =>
      let (_, _, h0, _) := foldCover j.ss j.ds j
      hit j.src || hit j.dst || hit (j.src + 64 * (h0 + k % 2)) || hit (j.dst + 64 * j.k)
    | none => false
  else false

/-- A fold has asked for such a source line and does not have it yet. -/
def readPending (c : Ctl) (n : Nat) (r : Run) : Bool :=
  r.op != 8 && r.issued.any (fun k => readsBy c n r k && (tabFind r.buf (rKey k)).isNone && !r.wrote.contains (k / 2))

/-- Such lines that a command has read and not used are read again under the new format (R213). -/
def rereadRun (c : Ctl) (n : Nat) (r : Run) : Run :=
  let old (key : Nat) : Bool := decide (key % 8 = 4) && readsBy c n r (key / 8)
  let ks := (r.buf.filter (fun p => old p.1)).map (fun p => p.1 / 8)
  { r with buf := r.buf.filter (fun p => !old p.1), issued := r.issued.filter (fun k => !ks.contains k) }

/-- The command is a PACK whose stream has its format from region `n` (R311). -/
def packsInto (c : Ctl) (n : Nat) (r : Run) : Bool := decide (r.op = 7 ∧ regionOf (canonTa (remapNow c) r.dstA.a) = some n)

/-- A PACK goes on under the new format of its stream (R213, R311): the payload lines of the new geometry that lie whole in lines written before
are done, and every other one is written from its view lines, which the mover holds or has still to read (DESIGN CHOICE, log 150). -/
def repackRun (c0 c1 : Ctl) (n : Nat) (r : Run) : Run :=
  let e0 := (geoAt c0 r.dstA.a).e
  let e1 := (geoAt c1 r.dstA.a).e
  if packsInto c0 n r && decide (e0 ≠ e1) then
    let us := (List.range (r.total c1)).filter (fun u =>
      (List.range (((u + 1) * e1 - 1) / e0 + 1)).all (fun k => decide (k < u * e1 / e0) || r.wrote.contains k))
    { r with wrote := us, done := us.length, sent := us.length }
  else r

/-- A request of before the change that touches the region is not finished. -/
def regionPending (c : Ctl) (ch : RegionChange) : Bool :=
  c.port.reqs.any (fun r => decide (r.id < ch.serial) && decide (r.verdict = .serve) && !r.answeredAll
      && (reqTas c r).any (fun t => decide (regionOf (canonTa r.remap t) = some ch.n)))
    || c.port.ops.any (fun o => o.lines.any (fun t => decide (regionOf t = some ch.n)))
    || c.port.parity.any (fun j => decide (regionOf j.op.ta = some ch.n))
    || c.chv.any (fun p => p.2.wc.any (fun e => decide (regionOf e.ta = some ch.n)))
    || c.mov.q.any (fun p => match p.2.run with
      | some r => readPending c ch.n r || (packsInto c ch.n r && decide (r.done ≠ r.wrote.length))
      | none => false)

/-- Every bank of the region is OFF, or awake with its bundles trained. The clear reaches the slice like any other access, so it waits for a
bundle in full retrain as R395 has accesses wait, past the 4 µs of R73 if need be (DESIGN CHOICE, log 133). -/
def regionAwake (c : Ctl) (n : Nat) : Bool :=
  (regionBanks c n).all (fun sb => (slicesOf c sb.1).all (fun p =>
    decide ((bankOf c p sb.2).st = .off) || (decide ((bankOf c p sb.2).st = .on) && !retraining c p sb.2)))

/-- REGION_CLEAR_COMPLETE (R72, R73): the accepted requests have finished, every line reads as a zero line, the attributes apply, the
write completes, and what was held goes on. -/
def regionClear (s : State) : State :=
  match s.ctl.region with
  | none => s
  | some ch =>
    if regionPending s.ctl ch then s
    else if !regionAwake s.ctl ch.n then s.onCtl (wakeRegion ch.n)
    else
      let c0 := s.ctl
      (s.onStore (Store.clearWhere (fun k => decide ((keyTa c0 k).bind regionOf = some ch.n)))).onCtl (fun c =>
        let c1 := (c.mov.q.map Prod.fst).foldl (fun c q => modRun q (rereadRun c0 ch.n) c) c
        let c2 := (c1.mov.q.map Prod.fst).foldl (fun x q => modRun q (repackRun c0 (setReg (rgnEnt ch.n) ch.val c0) ch.n) x)
          (setReg (rgnEnt ch.n) ch.val { c1 with region := none })
        pump (landPump (match c2.dev.hub with | .region _ => hubComplete c2 | _ => c2)))

/-- A write to BRL_CTRL (R52, R499): every port ring, mover, landing unit and HP take the new setting with it. -/
def ctrlWrite (v : Word) (c : Ctl) : Ctl := writeStored brlCtrl v c

/-- Reseed every queue stream, and the HP stream, from FEN_QSEED (R253, R258). -/
def reseedQueues (c : Ctl) : Ctl :=
  let seed := (reg c fenQseed).toNat
  { c with lfsrQ := (List.range 72).map (fun q => (q, seedFor seed q)) }
def reseedHp (c : Ctl) : Ctl := { c with lfsrHp := seedFor (reg c fenQseed).toNat 72 }

/-- Reseed the port stream of zone `z` (R253). -/
def reseedPort (z : Nat) (c : Ctl) : Ctl := { c with lfsrPort := tabPut 1 z (reg c (fenSeed z)).toNat c.lfsrPort }

/-- A write to FEN_RESEED (R253, R260); the zone and hp fields belong to Fennel, queues to Fennel and the fold units. -/
def reseedWrite (v : Word) (c : Ctl) : Ctl :=
  let c1 := if fennelOn c then (List.range 16).foldl (fun c z => if bit v z then reseedPort z c else c) c else c
  let c2 := if bit v 16 && (fennelOn c || foldOn c) then reseedQueues c1 else c1
  if bit v 17 && fennelOn c then reseedHp c2 else c2

end Sys2Proof.Machine
end

