-- ==== Sys2Proof/Machine/Transfer.lean ====
section
/-! DEFINITION. The commands of Thyme's registers, Fennel, the region table, the queues, movers, stacks, links and landing windows
(chapters 04, 06, 07, 02, 08). -/

namespace Sys2Proof.Machine

/-- THY_CLR (R165): the slip counts and longest-hold records of the named groups. -/
def execThyClr (a : Agent) (v : Word) (s : State) : Ans :=
  nextCtl (hubCtl a (rg 1 0x1F0) v (fun c => (List.range 4).foldl (fun c g => if bit v g then thyClear g c else c) c)) s

/-- FEN_RESEED, zones field (R253, R260). -/
def execFenReseedZone (a : Agent) (zones : Word) (s : State) : Ans :=
  nextCtl (hubCtl a (rg 6 0xC0) zones (reseedWrite (zones &&& 0xFFFF#32))) s

/-- FEN_RESEED, queues field (R253, R260). -/
def execFenReseedQueues (a : Agent) (s : State) : Ans := nextCtl (hubCtl a (rg 6 0xC0) 0x10000#32 (reseedWrite 0x10000#32)) s

/-- FEN_RESEED, hp field (R253, R260). -/
def execFenReseedHp (a : Agent) (s : State) : Ans := nextCtl (hubCtl a (rg 6 0xC0) 0x20000#32 (reseedWrite 0x20000#32)) s

/-- A write to RGN_ENT[n] (R68..R73). -/
def execRgnEntWrite (a : Agent) (n : Nat) (v : Word) (s : State) : Ans :=
  nextCtl (fun c => if n < 8192 then pump (hubCtl a (rgnEnt n) v (rgnWrite a n v) c) else c) s

/-- REGION_CLEAR_COMPLETE (R72, R73). -/
def execRegionClearComplete (s : State) : Ans := .next (regionClear s)

/-- A write to BRL_CTRL.remap (R49, R52, R499). -/
def execBrlCtrlRemap (a : Agent) (v : Word) (s : State) : Ans := nextCtl (hubCtl a brlCtrl v (ctrlWrite v)) s

/-- A write to MOV_QTAIL[q] (R302). -/
def execMovQtailWrite (a : Agent) (q : Nat) (v : Word) (s : State) : Ans :=
  if q < 72 then nextCtl (hubCtl a (movQtail q) v (tailWrite q v)) s else .next s

/-- QUEUE_DOORBELL (R304, R305). -/
def execQueueDoorbell (z j tail seq : Nat) (s : State) : Ans := nextCtl (doorbell z j tail seq) s

/-- DOORBELL_APPLY (R305). -/
def execDoorbellApply (z : Nat) (s : State) : Ans := nextCtl (doorbellApply z) s

/-- RECORD_FETCH (R301, R303). -/
def execRecordFetch (q : Nat) (rdy : Bool) (tag : Nat) (s : State) : Ans := nextCtl (fetchRecord q rdy tag) s

/-- MOVER_TAKE (R297). -/
def execMoverTake (m : Nat) (s : State) : Ans := nextCtl (moverTake m s) s

/-- NOP (R315). -/
def execNop (q : Nat) (s : State) : Ans := nextCtl (qNop q) s

/-- COPY (R308): the next phase of line `i` of the command that mover `m` runs. -/
def execCopy (m i : Nat) (s : State) : Ans := nextCtl (fun c => pump (onMover m 1 (copyStep i) c)) s

/-- FILL (R309): the next phase of line `i` of the command that mover `m` runs. -/
def execFill (m i : Nat) (s : State) : Ans := nextCtl (fun c => pump (onMover m 2 (fillStep i) c)) s

/-- GATHER (R310): the next phase of line `i` of the command that mover `m` runs. -/
def execGather (m i : Nat) (s : State) : Ans := nextCtl (fun c => pump (onMover m 3 (indexStep false i) c)) s

/-- SCATTER (R310): the next phase of line `i` of the command that mover `m` runs. -/
def execScatter (m i : Nat) (s : State) : Ans := nextCtl (fun c => pump (onMover m 4 (indexStep true i) c)) s

/-- ROUTE (R277..R280): the next phase of the list of the command that mover `m` runs. -/
def execRoute (m : Nat) (s : State) : Ans := nextCtl (fun c => pump (onMover m 5 (routeStep) c)) s

/-- COMBINE (R281..R284): the next phase of the list of the command that mover `m` runs. -/
def execCombine (m : Nat) (s : State) : Ans := nextCtl (fun c => pump (onMover m 6 (combineStep) c)) s

/-- PACK (R311): the next phase of line `i` of the command that mover `m` runs. -/
def execPack (m i : Nat) (s : State) : Ans := nextCtl (fun c => pump (onMover m 7 (packStep i) c)) s

/-- UNPACK (R311): the next phase of line `i` of the command that mover `m` runs. -/
def execUnpack (m i : Nat) (s : State) : Ans := nextCtl (fun c => pump (onMover m 8 (unpackStep i) c)) s

/-- FOLD (R312): the next phase of line `i` of the command that mover `m` runs. -/
def execFold (m i : Nat) (s : State) : Ans := nextCtl (fun c => pump (onMover m 9 (foldStep i) c)) s

/-- SEND (R313): the next phase of line `i` of the command that mover `m` runs. -/
def execSend (m i : Nat) (s : State) : Ans := nextCtl (fun c => pump (onMover m 10 (sendStep i) c)) s

/-- LP_OUT_BEAT (R125, R313). -/
def execLpOutBeat (l q : Nat) (s : State) : Ans := nextCtl (lpOut l q) s

/-- LP_OUT_CREDIT (R125). -/
def execLpOutCredit (l : Nat) (s : State) : Ans := nextCtl (lpCreditIn l) s

/-- A queue ARRIVE (R315, R348). -/
def execQueueArrive (q : Nat) (s : State) : Ans := nextCtl (qArrive q) s

/-- A queue WAIT (R345, R348). -/
def execQueueWait (q : Nat) (s : State) : Ans := nextCtl (qWait q) s

/-- INVAL (R315). -/
def execInval (q : Nat) (s : State) : Ans := nextCtl (qInval q) s

/-- FENCE (R315). -/
def execFence (q : Nat) (s : State) : Ans := nextCtl (qFence q) s

/-- COMMAND_END (R192). -/
def execCommandEnd (q : Nat) (s : State) : Ans := nextCtl (commandEnd q) s

/-- COMPLETION_RECORD (R316). -/
def execCompletionRecord (q : Nat) (s : State) : Ans := nextCtl (writeCompletion q) s

/-- STACK_READ_BEAT (R121, R323). -/
def execStackReadBeat (p : SaPort) (tag status : Nat) (beat : RsBeat) (poison : Bool) (s : State) : Ans :=
  nextCtl (fun c => pump (stackRead p tag status beat poison c)) s

/-- STACK_WRITE_RESPONSE (R323). -/
def execStackWriteResponse (p : SaPort) (tag status : Nat) (s : State) : Ans := nextCtl (stackWrote p tag status) s

/-- STACK_HOT_RISE (R319, R321). -/
def execStackHotRise (x rate : Nat) (s : State) : Ans := nextCtl (hotRise x rate) s

/-- STACK_HOT_FALL (R319). -/
def execStackHotFall (x : Nat) (s : State) : Ans := nextCtl (hotFall x) s

/-- A write to MOV_SQ (R322). -/
def execStackQuiesce (a : Agent) (v : Word) (s : State) : Ans := nextCtl (hubCtl a movSq v (quiesceWrite v)) s

/-- STACK_QUIESCED (R322). -/
def execStackQuiesced (x : Nat) (s : State) : Ans := nextCtl (stackQuiet x) s

/-- A write to MOV_TD with go = 1 (R330). -/
def execTeardown (a : Agent) (v : Word) (s : State) : Ans := nextCtl (hubCtl a (rg 8 0x10) v (tdWrite (setBit v 8 true))) s

/-- TEARDOWN_DONE (R330). -/
def execTeardownDone (s : State) : Ans := nextCtl tdDone s

/-- LP_IN_BEAT (R124..R126, R324). -/
def execLpInBeat (l w gen off : Nat) (lv poison : List Bool) (data : List Line) (s : State) : Ans :=
  nextCtl (fun c => if l < 12 then lpIn l w gen off lv poison data c else c) s

/-- LANDING_LINE_ACCEPT (R325, R327). -/
def execLandingLineAccept (k : Nat) (s : State) : Ans := nextCtl (landAccept k) s

/-- LANDING_LINE_REFUSED (R326, R327). -/
def execLandingLineRefused (k : Nat) (s : State) : Ans := nextCtl (landRefuse k) s

/-- A write of open = 1 to LND_WCTRL[w] (R328). -/
def execWindowOpen (a : Agent) (w : Nat) (v : Word) (s : State) : Ans :=
  if w < 256 then nextCtl (hubCtl a (lndWctrl w) v (lndCtrl w (setBit v 1 true))) s else .next s

/-- A write of close = 1 to LND_WCTRL[w] (R329). -/
def execWindowClose (a : Agent) (w : Nat) (v : Word) (s : State) : Ans :=
  if w < 256 then nextCtl (hubCtl a (lndWctrl w) v (lndCtrl w (setBit v 2 true))) s else .next s

end Sys2Proof.Machine
end

