-- ==== Sys2Proof/Machine/Repair.lean ====
section
/-! DEFINITION. Scrubbing, lanes and retrains, live slice migration, the capture queue and the error log (R388..R413). -/

namespace Sys2Proof.Machine

/-- The first stored line at or after line `r` of bank `b` of slice `p` that is not a zero line. -/
def nextStored (st : Store) (p b r : Nat) : Option Nat :=
  if st.blur.isSome && decide (p < 72 ∧ b = 15) then
    ((List.range (16384 - r)).map (fun i => r + i)).find? (fun i => !st.isZero (physKey p b i))
  else
    (st.tags.find? (fun t => decide (physKey p b r ≤ t.1 ∧ t.1 < physKey p b 0 + 16384))).map (fun t => t.1 - physKey p b 0)

/-- PRT_SCRUB_CFG.stripe_chk. -/
def stripeChk (c : Ctl) : Bool := bit (reg c prtScrubCfg) 8

/-- The parity lines that the stripe check has to look at although their zero bits are set: those of the stripes that hold a line which is not a
zero line (R264, R390). -/
def zeroParity (s : State) : List (Nat × Loc) :=
  if stripeChk s.ctl then
    s.store.tags.filterMap (fun t => (keyTa s.ctl t.1).bind (fun ta =>
      if isGuarded s.ctl ta && !isParity s.ctl ta then
        (place s.ctl (parityTa ta)).bind (fun l => if s.store.isZero (keyOf s.ctl l) then some (parityTa ta, l) else none)
      else none))
  else []

/-- The next line of bank `b` of slice `p` that the scrubber looks at, at or after line `r` (R388, R390). -/
def nextScrub (s : State) (p b r : Nat) : Option Nat :=
  let zs := ((zeroParity s).filter (fun x => decide (redirect s.ctl x.2.s x.2.x = p ∧ x.2.b = b ∧ r ≤ x.2.r))).map (fun x => x.2.r)
  zs.foldl (fun m y => match m with | none => some y | some x => some (min x y)) (nextStored s.store p b r)

/-- The next line of a scrub order: bank, line, and the banks left; banks that are not ON are passed over (R388). -/
def scrubNext (s : State) (p : Nat) (banks : List Nat) (r : Nat) : Option (Nat × Nat × List Nat) :=
  match banks with
  | [] => none
  | b :: rest =>
    if (bankOf s.ctl p b).st ≠ .on then scrubNext s p rest 0
    else
      match nextScrub s p b r with
      | some x => some (b, x, b :: rest)
      | none => scrubNext s p rest 0

/-- The data lines of the stripe of parity line `ta` can be read by the scrubber, which reads no bank in RET (R388, log 42). -/
def stripeAwake (s : State) (ta : Nat) : Bool :=
  (stripeBut s.ctl ta).all (fun l => s.store.isZero (keyOf s.ctl l)
    || decide ((bankOf s.ctl (redirect s.ctl l.s l.x) l.b).st = .on))

/-- What the array holds at `l` after the upset `up`. -/
def rawAt (l : Loc) (up : Upset) (s : State) : Raw := (rawRead s.store (keyOf s.ctl l) up s.ctl.free).1

/-- The scrubber reads the whole stripe of parity line `ta`: to check it, or to rebuild the line (R384, R390), which it does with stripe_chk =
0 too (DESIGN CHOICE, log 154). -/
def stripeDue (ta : Nat) (l : Loc) (up : Upset) (s : State) : Bool :=
  match rawAt l up s with
  | .bad _ _ _ _ _ => true
  | .poison => true
  | _ => stripeChk s.ctl && stripeAwake s ta

/-- The exclusive-or of the data lines of the stripe of `ta` for a copy; each read costs Lovage a spread line. -/
def stripeSum (ta : Nat) (s : State) : State × Option Line := (stripeBut s.ctl ta).foldl (sumLine 1) (s, some zeroLine)

/-- The scrubber has read the line at `l`, and written it back where the array held flipped bits that are there no more (R413). -/
def noteScrub (l : Loc) (flips : List Nat) (s : State) : State :=
  let back := decide (flips ≠ tabGet [] s.store.upsets (keyOf s.ctl l))
  s.onCtl (fun c => emit (evZ 0x6C l.zone) (if back then emit (evZ 0x6D l.zone) c else c))

/-- Add a line of a stripe that the scrubber reads: a scrub read like any other (R390, R413). -/
def scrubSum (acc : State × Option Line) (l : Loc) : State × Option Line :=
  let (s1, d) := sumLine 6 acc l
  (if acc.1.store.isZero (keyOf acc.1.ctl l) then s1 else noteScrub l (tabGet [] acc.1.store.upsets (keyOf acc.1.ctl l)) s1, d)

/-- A parity line that the scrubber rewrites or rebuilds (R384, R390). -/
def parityFixed (l : Loc) (d : Line) (s : State) : State := (storeParity l d s).onCtl (noteParity l)

/-- What the scrubber of the parity slice does with the parity line at `ta` (R384, R390); whether it repaired the line. One whose zero bit is set
is read at the tag store, as the stripe's zero data lines are (R269, R294). -/
def stripeCheck (ta : Nat) (l : Loc) (up : Upset) (s : State) : State × Bool :=
  let due := stripeDue ta l up s
  let (s1, r) := readRaw l up s
  if !due then (s1, match r with | .good _ ces _ _ => decide (ces ≠ 0) | _ => false)
  else
    let s1 := if r = .zero then s1.onCtl (countBeside 6 l false true) else s1
    let (s2, d) := (stripeBut s1.ctl ta).foldl scrubSum (s1, some zeroLine)
    match r, d with
    | .good x ces _ _, some y => if x ≠ y then (parityFixed l y s2, true) else (s2, decide (ces ≠ 0))
    | .good _ ces _ _, none => (s2, decide (ces ≠ 0))
    | .zero, some y => if allZero y then (s2, false) else (parityFixed l y s2, true)
    | .zero, none => (s2, false)
    | _, some y => (parityFixed l y s2, true)
    | .poison, none => (s2, false)
    | .bad w syn _ _ _, none => ((storeLine l zeroLine true s2).onCtl (captureLine 0x04 l w syn), false)

/-- The other lines of the stripe of `ta`. -/
def stripeTas (ta : Nat) : List Nat := (stripe ta).filter (fun t => decide (t ≠ ta))

/-- The lines of its stripe that a scrub read of the line at `l` reads with it (R381, R384, R390). -/
def scrubExtra (ta : Nat) (l : Loc) (up : Upset) (s : State) : List Nat :=
  let due := if isParity s.ctl ta then stripeDue ta l up s else isGuarded s.ctl ta && rawBad s l up
  if due then stripeTas ta else []

/-- How many of the lines at `ls` have been corrected and written back between `s` and `t` (R376, R381, R390). -/
def linesMended (ls : List Loc) (s t : State) : Nat :=
  (ls.filter (fun x => !(tabGet [] s.store.upsets (keyOf s.ctl x)).isEmpty && (tabGet [] t.store.upsets (keyOf s.ctl x)).isEmpty
    && !t.store.isPoison (keyOf s.ctl x))).length

/-- The scrubber reads one line (R388): R376, R377, R381, R383, R390. How many lines it repaired: that line, and those of its stripe that were
corrected as it was rebuilt or checked. A set zero bit is not read: its line is looked at for its stripe alone. -/
def scrubLine (ta : Nat) (l : Loc) (up : Upset) (s : State) : State × Nat :=
  let k := keyOf s.ctl l
  let zero := s.store.isZero k
  let flips := flipMore (tabGet [] s.store.upsets k) up
  let (s1, fixed) :=
    if isParity s.ctl ta then stripeCheck ta l up s
    else
      let (a, r) := readLine ta l up s
      (a, !zero && !flips.isEmpty && decide (r.st = .ok))
  let n := (if fixed then 1 else 0) + linesMended ((scrubExtra ta l up s).filterMap (place s.ctl)) s s1
  if zero then (s1, n) else ((noteScrub l flips s1).onCtl (token 6 1), n)

/-- The array keeps what the upset did to a line that a background access presents, or whose read waits. -/
def keepUpset (l : Loc) (up : Upset) (s : State) : State := s.onStore (Store.upset (keyOf s.ctl l) up)

/-- A background read that waits asks for the wakes it waits for. -/
def backWakes (k : Option Cause) (a : Asked) (s : State) : State :=
  s.onCtl (fun c => if k = some .retWake then ((a.ta :: a.extra).filterMap (place c)).foldl (fun c x => wantWake x c) c else c)

/-- The pass of slice `p` is over; when every slice in use has finished, a whole pass is counted (Table 10-5), and the next one begins with the
next period (R388). -/
def scrubEnd (p : Nat) (c : Ctl) : Ctl :=
  let c1 := setScrub p Scrub.rest { c with prt := { c.prt with scrubDone := insertNew p c.prt.scrubDone } }
  if (List.range 128).all (fun s => c1.prt.scrubDone.contains (committed c1 s)) then
    modReg prtScrubSt (fun v => setBit (setBits v 16 16 (bits v 16 16 + 1)) 0 false)
      { c1 with prt := { c1.prt with scrubDone := [], passStart := max c1.rtc (c1.prt.passStart + scrubPeriod c1) } }
  else c1

/-- The background access of the line at `ta`, with the lines `extra`: the one presented already, or a new one with its number (R111). -/
def askedFor (c : Ctl) (x : Option Asked) (ta : Nat) (extra : List Nat) : Asked :=
  match x with
  | some y => if y.ta = ta then { y with extra := extra } else ⟨c.port.serial, 0, ta, extra⟩
  | none => ⟨c.port.serial, 0, ta, extra⟩

/-- A new number has been given. -/
def nextSerial (c : Ctl) : Ctl := { c with port := { c.port with serial := c.port.serial + 1 } }

/-- The scrubber of slice `p` has presented access `a`, of the line at `l`: it is served once it can go on and the slice's arbiter grants it
(R111, R389). -/
def scrubServe (p : Nat) (a : Asked) (l : Loc) (rest : List Nat) (s : State) : State :=
  match backAvail s a with
  | .wait k => backWakes k a s
  | _ =>
    if scrubRuns s.ctl p (1 + a.extra.length) && backgroundFirst s p a then
      (scrubLine a.ta l [] (s.onCtl (fun c => setScrub p ⟨true, rest, l.r + 1, none⟩ (ageOthers p none (some a.serial) (healPending (p / 9) c))))).1.onCtl
        (fun c => if scrubDue s.ctl p (scrubPos s.ctl p) then c else ballastSpent s.ctl.lov.tok c)
    else s

/-- SCRUB_ACCESS (R388..R391): the next line of the scrub order of slice `p`, once it is due. A slice that has finished its pass waits for the
next one, unless Lovage wants its reads as ballast, when it starts again at once (R442). -/
def scrubAccess (p : Nat) (up : Upset) (s : State) : State :=
  match logicalOf s.ctl p with
  | none => s
  | some ls =>
    if s.ctl.dev.run ≠ .running then s
    else
      let x := scrubOf s.ctl p
      let left := if x.on then x.left else List.range (bankCount s.ctl)
      match scrubNext s p left x.r with
      | none => if scrubDue s.ctl p 0 || ballastReads s.ctl 1 then s.onCtl (scrubEnd p) else s
      | some (b, r, rest) =>
        if !(scrubDue s.ctl p ((bankCount s.ctl - rest.length) * 16384 + r) || ballastReads s.ctl 1) then s else
        let l : Loc := ⟨ls, b, r⟩
        match taOf s.ctl l with
        | none => s
        | some ta =>
          if redirect s.ctl ls l.x ≠ p then s.onCtl (setScrub p ⟨true, rest, r + 1, x.asked⟩)
          else
            let a := askedFor s.ctl x.asked ta (scrubExtra ta l up s)
            scrubServe p a l rest (keepUpset l up (s.onCtl (fun c => setScrub p ⟨true, rest, r, some a⟩ (nextSerial c))))

/-- SCRUB_BEHIND (R391). -/
def scrubBehind (c : Ctl) : Ctl :=
  if baseLogicOn c = true ∧ c.prt.passStart + scrubPeriod c ≤ c.rtc then raiseBit prtScrubSt 0 c else c

/-- The stored lines of a region in ON banks, and the zero parity lines that the stripe check looks at (Table 9-8): canonical address and
place. -/
def regionStored (s : State) (n : Nat) : List (Nat × Loc) :=
  s.store.tags.filterMap (fun t =>
    match keyTa s.ctl t.1 with
    | none => none
    | some ta =>
      if regionOf ta = some n ∧ (bankOf s.ctl (t.1 / 16384 / 48) (t.1 / 16384 % 48)).st = .on then (place s.ctl ta).map (fun l => (ta, l))
      else none)
    ++ ((zeroParity s).eraseDups.filter (fun x => decide (regionOf x.1 = some n ∧ (bankOf s.ctl (redirect s.ctl x.2.s x.2.x) x.2.b).st = .on)))

/-- The next line that SCRUB_REGION scrubs: that of the lowest address not scrubbed yet. -/
def regionNext (s : State) (x : RegScrub) : Option (Nat × Loc) :=
  ((regionStored s x.n).filter (fun y => decide (x.next ≤ y.1))).foldl (fun m y => match m with
    | none => some y
    | some b => if y.1 < b.1 then some y else some b) none

def setRegion (x : Option RegScrub) (c : Ctl) : Ctl := { c with prt := { c.prt with region := x } }

/-- SCRUB_REGION presents its next line to the arbiter of the slice, and scrubs it once the line can be read and the arbiter grants it; lines
repaired are counted (Table 9-8, R111, R389). -/
def regionStep (x : RegScrub) (s : State) : RegScrub × State :=
  match regionNext s x with
  | none => (x, s)
  | some (ta, l) =>
    let a := askedFor s.ctl x.asked ta (scrubExtra ta l [] s)
    let y := { x with asked := some a }
    let s1 := s.onCtl (fun c => setRegion (some y) (nextSerial c))
    let p := redirect s.ctl l.s l.x
    match backAvail s1 a with
    | .wait k => (y, backWakes k a s1)
    | _ =>
      if backgroundFirst s1 p a then
        let (s2, n) := scrubLine ta l [] (s1.onCtl (ageOthers p none (some a.serial)))
        let z := { x with next := ta + 1, asked := none, count := satAdd 24 x.count n }
        (z, s2.onCtl (setRegion (some z)))
      else (y, s1)

/-- Lanes whose CRC errors in the present window have reached the threshold (R393, R395). -/
def stormLanes (c : Ctl) (x : Lane) : Nat := (x.crc.filter (fun e => decide (bits (reg c prtLaneCfg) 0 8 ≤ e.2))).length

/-- Capture of a lane event (Table 10-2). -/
def captureLane (kind p t lane : Nat) (c : Ctl) : Ctl :=
  capture (capOf c kind p t 0 0 0 lane ((logicalOf c p).getD 0)) c

/-- A spare lane that is good and carries nothing, L16 before L17 (R393). -/
def Lane.freeSpare (x : Lane) : Option Nat := [16, 17].find? (fun l => !x.failed.contains l && !x.spares.contains l)

/-- Spare lanes in use (Table 10-7). -/
def Lane.inUse (x : Lane) : Nat := (x.spares.filter (fun l => !x.failed.contains l)).length

/-- Lane `lane` has failed: a free spare takes its traffic, if it carried any (R393); with more than two lanes failed the bundle is degraded
(R396). -/
def Lane.fail (lane : Nat) (x : Lane) : Lane :=
  if x.failed.contains lane then x
  else
    let y := { x with failed := x.failed ++ [lane] }
    let z := if lane < 16 ∨ x.spares.contains lane = true then { y with spares := y.spares ++ y.freeSpare.toList } else y
    { z with degraded := z.degraded || decide (2 < z.failed.length) }

/-- A lane is marked failed and a spare switched in (R393); the second spare sets PRT_EV.spare_out, and a third failure makes the bundle degraded
(R396). -/
def failLane (p t lane : Nat) (c : Ctl) : Ctl :=
  let x := laneOf c p t
  let y := x.fail lane
  if x.failed.contains lane then c
  else
    let c1 := captureLane 0x08 p t lane (latchPrt 2 (emit (evZ 0x70 (p / 9)) (setLane p t y c)))
    let c2 := if x.spares.length < 2 ∧ y.spares.length = 2 then latchPrt 6 c1 else c1
    if y.degraded && !x.degraded then captureLane 0x0A p t 0 (latchPrt 4 (emit (evZ 0x73 (p / 9)) c2)) else c2

/-- The bundle exists, and has power (R41). -/
def bundleFits (c : Ctl) (p t : Nat) : Bool := decide (p < Config.physicalSlices ∧ t < c.part.tiers) && baseLogicOn c

/-- LANE_CRC_ERROR (R392, R393). -/
def laneCrc (p t lane : Nat) (c : Ctl) : Ctl :=
  if bundleFits c p t && decide (lane < 18) then
    let x := laneOf c p t
    let fresh := decide (x.winStart + 1000 * bits (reg c prtLaneCfg) 8 8 ≤ c.rtc)
    let x1 := { x with
      crc := tabMod 0 lane (fun n => n + 1) (if fresh then [] else x.crc)
      winStart := if fresh then c.rtc else x.winStart }
    let c1 := emit { evZ 0x6F (p / 9) with qual := t } (setLane p t x1 c)
    if bits (reg c1 prtLaneCfg) 0 8 ≤ tabGet 0 x1.crc lane then failLane p t lane c1 else c1
  else c

/-- LANE_RETRAIN (R394): not without a spare lane, nor with period 0; it changes no value. -/
def laneRetrain (p t : Nat) (c : Ctl) : Ctl :=
  let x := laneOf c p t
  let period := bits (reg c prtLaneCfg) 20 8
  if bundleFits c p t && decide (period ≠ 0 ∧ x.freeSpare.isSome = true ∧ x.retrain = false ∧ x.trained + 1000000 * period ≤ c.rtc) then
    setLane p t { x with trained := c.rtc } c
  else c

/-- FULL_RETRAIN (R395): an error storm, or a handshake that fails to complete. -/
def fullRetrain (p t : Nat) (handshake : Bool) (c : Ctl) : Ctl :=
  let x := laneOf c p t
  if bundleFits c p t && !x.retrain && (handshake || decide (bits (reg c prtLaneCfg) 16 4 ≤ stormLanes c x)) then
    captureLane 0x09 p t 0 (latchPrt 3 (emit (evZ 0x71 (p / 9)) (setLane p t { x with retrain := true, trained := c.rtc } c)))
  else c

/-- FULL_RETRAIN_DONE (R396): the bundle starts a new window of CRC errors, with none counted (log 116). -/
def fullRetrainDone (p t : Nat) (untrained : List Nat) (c : Ctl) : Ctl :=
  let x := laneOf c p t
  if x.retrain && baseLogicOn c then
    let c1 := emit { evZ 0x72 (p / 9) with w := c.rtc - x.trained }
      (setLane p t { x with retrain := false, trained := c.rtc, crc := [], winStart := c.rtc } c)
    (untrained.filter (fun l => decide (l < 18))).foldl (fun c l => failLane p t l c) c1
  else c

/-- The spare of zone `z` is still there: no slice of the zone has been retired (R20). -/
def hasSpare (c : Ctl) (z : Nat) : Bool := c.prt.retired.all (fun p => decide (p / 9 ≠ z))

/-- A migration request is refused (R397). -/
def migRefuse (z s : Nat) (c : Ctl) : Ctl :=
  capture (capOf c 0x0D (committed c s) 0 0 0 0 0 s) (raiseInt 7 (raiseBit (migSt z) 29 (emit (evZ 0x77 z) c)))

/-- A migration request for logical slice `s` (R397). A spare's banks are OFF until the copy begins (R415). -/
def migRequest (s : Nat) (c : Ctl) : Ctl :=
  let z := s / 8
  if (migOf c z).active || !hasSpare c z then migRefuse z s c
  else
    let spare := 9 * z + 8
    let c1 := { c with prt := { c.prt with mig := tabPut Mig.rest z ⟨true, false, s, spare, 0, none, none, none⟩ c.prt.mig } }
    let c2 := (List.range (bankCount c)).foldl (fun c b => setBank spare b { Bank.rest with st := .off } c) c1
    capture (capOf c2 0x0B (committed c2 s) 0 0 0 0 0 s) c2

/-- A write to MIG_CTRL (R397). -/
def migWrite (v : Word) (c : Ctl) : Ctl := if bit v 31 then migRequest (bits v 0 7) c else c

/-- PRT_POLICY asks for a migration of slice `s` (R398). -/
def migWanted (c : Ctl) (s : Nat) : Bool :=
  let v := reg c prtPolicy
  let h := if 3600000000 ≤ c.rtc - c.prt.hourStart then (0, 0) else tabGet (0, 0) c.prt.hour s
  bit v 24 && (decide (bits v 0 16 ≠ 0 ∧ bits v 0 16 ≤ h.1) || decide (bits v 16 8 ≠ 0 ∧ bits v 16 8 ≤ h.2)
    || (bit v 25 && (List.range 3).any (fun t => (laneOf c (committed c s) t).degraded)))

/-- AUTO_MIGRATE (R398): Acien's write of MIG_CTRL, which waits for an access that the hub holds (R39). Acien starts none during SLEEP entry (log
111). -/
def autoMigrate (s : Nat) (c : Ctl) : Ctl :=
  if s < 128 ∧ acienRuns c = true ∧ c.dev.hub = .idle ∧ c.pwr.entry = none ∧ migWanted c s = true then migRequest s c else c

def setMig (z : Nat) (m : Mig) (c : Ctl) : Ctl := { c with prt := { c.prt with mig := tabPut Mig.rest z m c.prt.mig } }

/-- The spare's banks are brought to the states of the old slice's, a wake under way among them, and the copy begins at watermark 0 (R400,
R403). -/
def migBuild (z : Nat) (s : State) : State :=
  let m := migOf s.ctl z
  let p := committed s.ctl m.slice
  let s1 := (List.range (bankCount s.ctl)).foldl (fun s b => bankTo1 m.spare b (bankOf s.ctl p b).st s) s
  s1.onCtl (setMig z { m with built := true })

/-- A bank in RET is woken for the copy only (R400). -/
def wakeForCopy (p b : Nat) (c : Ctl) : Ctl :=
  let x := bankOf c p b
  if x.st = .ret then setBank p b { x with want := true, forCopy := true } c else c

/-- After its copy a bank woken for it returns to RET (R400). -/
def bankAfterCopy (p b : Nat) (s : State) : State :=
  let x := bankOf s.ctl p b
  if x.forCopy then
    (if x.st = .on then bankTo1 p b .ret s else s).onCtl (fun c => setBank p b { bankOf c p b with forCopy := false } c)
  else s

/-- Writes that wait at line `x` of logical slice `s` until its copy ends (R380, R399): accesses, the parity and side lines of guarded writes,
the parity lines of lost zero-bit groups, and what Brural writes for itself: its own lines, the Sorrel dumps asked for in SRL_DUMP or by a
command that Acien can take, and the record of a requested reset that waits for nothing else (R475). -/
def heldWrites (st : State) (s x : Nat) : Nat :=
  let c := st.ctl
  let here (t : Nat) : Bool := match place c t with | some l => decide (l.s = s ∧ l.x = x) | none => false
  let dumps := (if c.srl.dump.isSome then 1 else 0)
    + (if acienRuns c && !c.srl.dead && !domInReset c 18 then
        (c.srl.mbx.filter (fun p => p.2.full && decide (bits p.2.msg 24 8 = 0x02) && c.prt.cap.isEmpty && c.prt.acien.isNone)).length
      else 0)
  let record := if c.dev.resetReq.isSome && !c.out.fatal && allDrained c then (recordTas.filter here).length else 0
  (c.port.ops.filter (fun o => o.acc.isWrite && o.lines.any here)).length + (c.port.parity.filter (fun j => j.others.any here)).length
    + (c.dev.own.filter (fun y => here y.1)).length + (if dumps ≠ 0 ∧ dumpTas.any here = true then dumps else 0) + record
    + (c.prt.tagWait.filter (fun y => y.2 && (groupGuarded st (y.1 / 256 / 48) (y.1 / 256 % 48) (y.1 % 256)).any (fun g => here (parityTa g.1)))).length

/-- The copy read of the line at `ta` (R400): corrected, rebuilt or poisoned as any read. An uncorrectable parity line is rebuilt from its data
lines for the spare alone (R384). -/
def copyRead (ta : Nat) (l : Loc) (up : Upset) (s : State) : State × LineRes :=
  if isParity s.ctl ta then
    let (s1, r) := readRaw l up s
    match r with
    | .zero => (s1, resData zeroLine true)
    | .good d _ _ _ => (s1, resData d (allZero d))
    | .poison => (s1, resSt .poison)
    | .bad w syn _ _ _ =>
      let (s2, d) := stripeSum ta s1
      match d with
      | some x => (s2, resData x (allZero x))
      | none => ((storeLine l zeroLine true s2).onCtl (captureLine 0x04 l w syn), resSt .poison)
  else readLine ta l up s

/-- The lines of its stripe that the copy read of the line at `l` reads with it (R381, R384). -/
def copyExtra (ta : Nat) (l : Loc) (up : Upset) (s : State) : List Nat := if isGuarded s.ctl ta && rawBad s l up then stripeTas ta else []

/-- The copy of zone `z` reads the watermark line, and presents its write to the spare's arbiter (R400, R402). -/
def copyTake (z : Nat) (l : Loc) (ta : Nat) (s : State) : State :=
  let lost := s.store.isLost (keyOf s.ctl l)
  let (s1, r) := copyRead ta l [] s
  s1.onCtl (fun c => nextSerial (setMig z { migOf c z with asked := none, got := some (r, lost), put := some ⟨c.port.serial, 0, ta, []⟩ } c))

/-- The copy's read `a`, of the watermark line at `l`, is presented: it is made once it can go on and the arbiter of slice `p` grants it
(R111, R395, R402). -/
def copyServe (z p : Nat) (a : Asked) (l : Loc) (s : State) : State :=
  match backAvail s a with
  | .wait k => backWakes k a s
  | _ =>
    if backgroundFirst s p a then copyTake z l a.ta (s.onCtl (fun c => ageOthers p none (some a.serial) (healPending z c))) else s

/-- The spare has accepted the watermark line, as it was read (R400, R401): zero bit only, poisoned, or the line. The copy costs Lovage a spread
line, or a zero line: Table 1-5 names no class for it (log 95). -/
def copyWatermark (z : Nat) (l : Loc) (r : LineRes) (lost : Bool) (s : State) : State :=
  let m := migOf s.ctl z
  let spareKey := physKey m.spare l.b l.r
  let zero := decide (r.st = .ok) && r.zero
  let s1 := s.onStore (if r.st = .ok then Store.put spareKey (if zero then zeroLine else r.data) else Store.poison lost spareKey)
  let s2 := s1.onCtl (fun c =>
    setMig z { m with wm := m.wm + 1, asked := none, got := none, put := none }
      (emit { evZ 0x76 z with w := heldWrites s1 l.s l.x } (emit (evZ (if zero then 0x75 else 0x74) z) (token (if zero then 3 else 1) 1 c))))
  if l.r = 16383 then bankAfterCopy m.spare l.b (bankAfterCopy (committed s.ctl m.slice) l.b s2) else s2

/-- The old slice's line at `l` is no longer what the copy has read: a region clear, a bank's way through OFF or a repair has changed it, and the
copy brings no removed data back (R73, R401, R414). -/
def copyStale (l : Loc) (r : LineRes) (lost : Bool) (s : State) : Bool :=
  match rawAt l [] s with
  | .zero => !(decide (r.st = .ok) && allZero r.data)
  | .good d _ _ _ => !decide (r.st = .ok ∧ r.data = d)
  | .poison => !decide (r.st = .poison ∧ s.store.isLost (keyOf s.ctl l) = lost)
  | .bad _ _ _ _ _ => false

/-- The copy's write of the watermark line into the spare, if it has read the line: it is made once the spare's bank and bundle let it and the
spare's arbiter grants it (R111, R395, R402). A line that has changed since is read again (R401). -/
def copyPut (z : Nat) (l : Loc) (s : State) : State :=
  let m := migOf s.ctl z
  match m.got, m.put with
  | some (r, lost), some a =>
    if copyStale l r lost s then s.onCtl (setMig z { m with asked := none, got := none, put := none })
    else if putReady s.ctl m l.b && backgroundFirst s m.spare a then
      (copyWatermark z l r lost (s.onCtl (ageOthers m.spare none (some a.serial)))).onCtl pump
    else s
  | _, _ => s

/-- The copy passes over the rest of a bank in OFF; the writes that waited at the watermark line go on (R399, R401, R413). -/
def skipBank (z : Nat) (m : Mig) (b : Nat) (l : Loc) (s : State) : State :=
  s.onCtl (fun c => setMig z { m with wm := 16384 * (b + 1), asked := none, got := none, put := none } (emit { evZ 0x76 z with w := heldWrites s l.s l.x } c))

/-- MIGRATION_COPY_LINE (R399..R404): the first one begins the copy; each other copies the watermark line once its banks are ON, no
retrain stops it and no guarded write holds it. -/
def migrationCopy (z : Nat) (up : Upset) (s : State) : State :=
  let m := migOf s.ctl z
  if copyRuns s.ctl z = false then s
  else if m.built = false then migBuild z s
  else
    let b := m.wm / 16384
    let l : Loc := ⟨m.slice, b, m.wm % 16384⟩
    let p := committed s.ctl m.slice
    if bankCount s.ctl ≤ b then s
    else if (bankOf s.ctl p b).st = .off then skipBank z m b l s
    else if (bankOf s.ctl p b).st = .on ∧ (bankOf s.ctl m.spare b).st = .on then
      match taOf s.ctl l with
      | none => s
      | some ta =>
        if m.got.isSome then copyPut z l s
        else
          let a := askedFor s.ctl m.asked ta (copyExtra ta l up s)
          copyPut z l (copyServe z p a l (keepUpset l up (s.onCtl (fun c => setMig z { m with asked := some a } (nextSerial c)))))
    else s.onCtl (fun c => wakeForCopy m.spare b (wakeForCopy p b c))

/-- MIGRATION_SWAP (R406, R407): the tables swap, the old slice goes OFF and is retired, and Acien records it (R408). A pending table that
cannot be read is rebuilt first, and the swap waits for that (R387). -/
def migrationSwap (z : Nat) (s : State) : State :=
  let m := migOf s.ctl z
  if m.built = true ∧ (s.ctl.dev.run = .running ∨ s.ctl.dev.run = .starting) ∧ m.wm = 16384 * bankCount s.ctl then
    if s.ctl.prt.pendingBad.contains z then s.onCtl (healPending z)
    else
    let p := committed s.ctl m.slice
    let s1 := (List.range (bankCount s.ctl)).foldl (fun s b => bankTo1 p b .off s) s
    s1.onCtl (fun c =>
      let c1 := { c with
        prt := { c.prt with
          mig := tabPut Mig.rest z { m with active := false, built := false } c.prt.mig
          moved := tabPut (9 * (m.slice / 8) + m.slice % 8) m.slice m.spare c.prt.moved
          retired := insertNew p c.prt.retired
          retLog := insertNew m.slice c.prt.retLog }
        pwr := { c.pwr with bank := c.pwr.bank.filter (fun q => decide (q.1 / 48 ≠ p)) } }
      pump (capture (capOf c1 0x0C p 0 0 0 0 0 m.slice) (raiseInt 6 c1)))
  else s

/-- The four words of an event record (Table 10-2). -/
def capWords (e : Cap) : List Nat :=
  [(e.rep % 256) <<< 24 + (e.bank % 64) <<< 16 + (e.pslice % 256) <<< 8 + e.kind % 256,
    (e.syn % 256) <<< 24 + (e.word % 8) <<< 14 + e.line % 16384, e.time % 2 ^ 32,
    (e.lane % 256) <<< 24 + (e.lslice % 128) <<< 16 + e.time / 2 ^ 32 % 65536]

def capBytes (e : Cap) : List Byte := (capWords e).flatMap (leBytes 4)

/-- PRT_CAP[i]: word `i` of the oldest captured entry, 0 when there is none (Table 10-4). -/
def capWord (c : Ctl) (i : Nat) : Word := match c.prt.cap with | e :: _ => BitVec.ofNat 32 ((capWords e).getD i 0) | [] => 0

/-- An event that repeats the newest log entry (R410). -/
def sameEvent (a b : Cap) : Bool := decide (a.kind = b.kind ∧ a.pslice = b.pslice ∧ a.bank = b.bank ∧ a.line = b.line)

/-- Address, data and mask of the line write that puts an entry into slot `n` of the error log (R409). -/
def logLine (n : Nat) (e : Cap) : Nat × Line × Nat :=
  let a := 0xE10000000 + 16 * (n % 65536)
  let o := a % 64
  (a - o, List.replicate o 0 ++ capBytes e ++ List.replicate (48 - o) 0, (2 ^ 16 - 1) <<< o)

/-- Acien's private path: its access under way. -/
def setJob (j : Option AcienJob) (c : Ctl) : Ctl := { c with prt := { c.prt with acien := j } }

/-- Acien begins an access on its private path, at QoS 0 (R38, R73, log 41). -/
def acienAsk (w : AcienWork) (ta : Nat) (write : Bool) (acc : Acc) (c : Ctl) : Ctl :=
  match engineIssue .acien 0 ta write acc c with
  | none => c
  | some (some st, c1) => setJob (some ⟨w, some (resSt st)⟩) c1
  | some (none, c1) => setJob (some ⟨w, none⟩) c1

/-- Log entry `e` has been written, over the newest one or as a new one (R409, R410). -/
def logWritten (again : Bool) (e : Cap) (c : Ctl) : Ctl :=
  let cap := match c.prt.cap with | x :: rest => if sameEvent x e then rest else x :: rest | [] => []
  let c1 := setJob none { c with prt := { c.prt with cap := cap, logLast := some e } }
  if again then c1 else bumpMod prtLogWp 0 32 1 c1

/-- A channel still waits for the answer to a LOG_READ of the log's byte address `a`. -/
def readWanted (c : Ctl) (a : Nat) : Bool :=
  c.srl.mbx.any (fun p => p.2.full && decide (bits p.2.msg 24 8 = 0x12 ∧ 0xE10000000 + 16 * (bits p.2.msg 0 24 % 65536) = a))

/-- LOG_DRAIN (R409, R410): Acien moves the oldest captured event into the error log: it asks for the write, and takes note once the slice has
made it, which writes PRT_LOG_WP through the hub and so waits for an access that the hub holds (R39). It stops with Sorrel, from step 3 of
SLEEP entry to the release of isolation (log 111). -/
def logDrain (c : Ctl) : Ctl :=
  if acienRuns c && !sorrelStill c && decide (c.dev.hub = .idle) then
    match c.prt.acien with
    | some ⟨.log again e, some _⟩ => logWritten again e c
    | some ⟨.read a, some _⟩ => if readWanted c a then c else setJob none c
    | some ⟨_, none⟩ => c
    | none =>
      match c.prt.cap with
      | [] => c
      | e :: _ =>
        let wp := (reg c prtLogWp).toNat
        let again := match c.prt.logLast with | some x => sameEvent x e && decide (wp ≠ 0) | none => false
        let e' := match again, c.prt.logLast with | true, some x => { x with rep := satAdd 8 x.rep 1 } | _, _ => e
        let (ta, d, mask) := logLine (if again then wp - 1 else wp) e'
        acienAsk (.log again e') ta true (.write d mask false) c
  else c

/-- The answer to a register read (R87, R127). -/
def readDone (a : Agent) (v : Word) (c : Ctl) : Ctl :=
  match a with
  | .mp => drive (.mpRs .ok v) c
  | .acien => { c with dev := { c.dev with acienRs := some v } }

/-- A read through the hub: `f` gives the word and what the read does; a register in reset reads its reset value (R128). -/
def hubRead (a : Agent) (o : Nat) (f : Ctl → Word × Ctl) (c : Ctl) : Ctl :=
  if hubTakes c a o then
    if regInReset c o then readDone a (resetRead c o) c else let (v, c1) := f c; readDone a v c1
  else match a with | .mp => if mpOpen c then noteWake 3 5 c else c | .acien => c

/-- A read of PRT_CAP[3] (R409, Table 10-4): Acien's removes the entry. -/
def capPop (a : Agent) (c : Ctl) : Word × Ctl :=
  (capWord c 3, match a with | .acien => { c with prt := { c.prt with cap := c.prt.cap.drop 1 } } | .mp => c)

/-- SCRUB_ACCESS, among what has reached the slices (R111). -/
def execScrubAccess (p : Nat) (up : Upset) (s : State) : Ans := .next (scrubAccess p up (s.onCtl toSlices))
def execScrubBehind (s : State) : Ans := nextCtl scrubBehind s
def execLaneCrcError (p t lane : Nat) (s : State) : Ans := nextCtl (laneCrc p t lane) s
def execLaneRetrain (p t : Nat) (s : State) : Ans := nextCtl (laneRetrain p t) s
def execFullRetrain (p t : Nat) (handshake : Bool) (s : State) : Ans := nextCtl (fullRetrain p t handshake) s
def execFullRetrainDone (p t : Nat) (untrained : List Nat) (s : State) : Ans := nextCtl (fun c => pump (fullRetrainDone p t untrained c)) s
/-- MIGRATION_START (R397): a write of MIG_CTRL.go = 1. -/
def execMigrationStart (a : Agent) (v : Word) (s : State) : Ans := nextCtl (hubCtl a (rg 10 0) v (migWrite (setBit v 31 true))) s
def execAutoMigrate (x : Nat) (s : State) : Ans := nextCtl (autoMigrate x) s
/-- MIGRATION_COPY_LINE, among what has reached the slices (R111). -/
def execMigrationCopyLine (z : Nat) (up : Upset) (s : State) : Ans := .next (migrationCopy z up (s.onCtl toSlices))
def execMigrationSwap (z : Nat) (s : State) : Ans := .next (migrationSwap z s)
def execPrtCapPop (a : Agent) (s : State) : Ans := nextCtl (hubRead a (rg 11 0x6C) (capPop a)) s
def execLogDrain (s : State) : Ans := nextCtl logDrain s

end Sys2Proof.Machine
end

