-- ==== Sys2Proof/Machine/Read.lean ====
section
/-! DEFINITION. What a register read returns: the layout descriptor table and the sixteen register blocks, as MP reads them without side
effects (R13, R15, R46, R128, R162..R166, R218..R220, R259, R357, R371, R412, R450, R475, R483..R502). -/

namespace Sys2Proof.Machine

/-- One step of CRC-32, reflected (R485). -/
def crcStep (x : Nat) : Nat := if x % 2 = 1 then (x / 2) ^^^ 0xEDB88320 else x / 2
def crcByte (x b : Nat) : Nat :=
  crcStep (crcStep (crcStep (crcStep (crcStep (crcStep (crcStep (crcStep (x ^^^ b))))))))
/-- CRC-32 of IEEE 802.3 (R485). -/
def crc32 (bs : List Nat) : Nat := bs.foldl crcByte 0xFFFFFFFF ^^^ 0xFFFFFFFF

/-- A record: header word and body (R488, Table 13-2). -/
def ldtRecord (type : Nat) (body : List Nat) : List Nat := ((4 * (body.length + 1)) <<< 16 + 0x0100 + type) :: body

def ldtTier (t : Nat) : List Nat := ldtRecord 0x01 [2 <<< 24 + 18 <<< 16 + 16 <<< 8 + t, 16384]
def ldtZone (z : Nat) : List Nat := ldtRecord 0x02 [8 <<< 24 + 9 <<< 16 + (9 * z) <<< 8 + z, 9 * z + 8]

/-- Four bytes as a word. -/
def wordOf4 (f : Nat → Nat) (i : Nat) : Nat := f (4 * i) + f (4 * i + 1) <<< 8 + f (4 * i + 2) <<< 16 + f (4 * i + 3) <<< 24

/-- SLICE_MAP (Table 13-6): the map of R18. -/
def ldtSliceMap (tiers : Nat) : List Nat :=
  ldtRecord 0x03 ([(16 * tiers) <<< 16 + 144 <<< 8 + 128, if tiers = 1 then 0xFFFF else 0xFFFFFFFF, if tiers = 3 then 0xFFFF else 0]
    ++ (List.range 32).map (wordOf4 (fun s => 9 * (s / 8) + s % 8)))

/-- POOL (Table 13-7). -/
def ldtPool (c : Ctl) : List Nat :=
  ldtRecord 0x04 ([kOf c 2 <<< 16 + kOf c 1 <<< 8 + kOf c 0, spreadMib c]
    ++ (List.range 16).map (fun z => popMib c z <<< 16 + nearMib c)
    ++ [14 <<< 8 + 13, 0x00FF <<< 16 + 15])

/-- Port `k` of core `z`. -/
def corePort (z k : Nat) : Port :=
  match k with
  | 0 => .ma z
  | 1 => .mb z
  | 2 => .mc z
  | 3 => .vx z
  | _ => .cd z

/-- An entry of PORT (Table 13-8). -/
def portEntry (loc beat : Nat) (enabled priv fl : Bool) (kind index : Nat) : Nat :=
  loc <<< 24 + beat <<< 16 + (if enabled then 2 ^ 14 else 0) + (if priv then 2 ^ 13 else 0) + (if fl then 2 ^ 12 else 0) + kind <<< 8 + index

/-- PORT (R492), entries in ascending port index. -/
def ldtPort (c : Ctl) : List Nat :=
  let cores := (List.range 80).map (fun i =>
    portEntry (i / 5) ([32, 32, 16, 16, 4].getD (i % 5) 0) true (decide (i % 5 < 3)) (fixedLag c (corePort (i / 5) (i % 5))) (i % 5) i)
  let sps := (List.range 20).map (fun s => portEntry (0x10 + s / 5) 20 true false false 5 (80 + s))
  let lps := ((List.range 12).filter (fun l => c.part.linkFit.testBit l)).map (fun l =>
    portEntry (0x10 + l / 3) 4 (linkOn c l) false false 6 (100 + l))
  let es := cores ++ sps ++ lps ++ [portEntry 0x10 1 true false false 7 112, portEntry 0x10 0 true false false 8 113]
  ldtRecord 0x05 (es.length :: es)

/-- SGROUP of group `g` (Table 13-9). -/
def ldtGroup (c : Ctl) (g : Nat) : List Nat :=
  let m := (List.range 80).foldl (fun a i => if groupOf c (corePort (i / 5) (i % 5)) = some g then a + 2 ^ i else a) 0
  ldtRecord 0x06 [bits (reg c thyCfg) 0 12 <<< 16 + profileOf c g <<< 8 + g, (reg c (thyLag g)).toNat, m % 2 ^ 32, m / 2 ^ 32 % 2 ^ 32,
    m / 2 ^ 64 % 2 ^ 16]

/-- UNIT of unit `u` (Table 13-10). -/
def ldtUnit (c : Ctl) (u : Nat) : List Nat :=
  let links := (List.range 12).filter (fun l => c.part.linkFit.testBit l)
  let present : Bool :=
    if u = 1 then decide (2 ≤ c.part.tiers) else if u = 2 then decide (3 ≤ c.part.tiers) else if u = 3 then c.part.fennel
    else if u = 4 then c.part.fold else if u = 5 then !links.isEmpty else if u = 6 then c.part.guarded
    else if u = 7 then c.part.force else c.part.launch
  let enabled : Bool :=
    if u ≤ 2 then present else if u = 3 then fennelOn c else if u = 4 then foldOn c else if u = 5 then links.any (linkOn c)
    else if u = 6 then guardedOn c else if u = 7 then forceOn c else launchOn c
  let count := if !present then 0 else if u = 5 then links.length else if u ≤ 2 ∨ u = 4 then 144 else if u = 3 then 16 else 1
  ldtRecord 0x07 [count <<< 16 + (if enabled then 2 ^ 9 else 0) + (if present then 2 ^ 8 else 0) + u,
    if u = 5 then maskOf (links.filter (linkOn c)) <<< 16 + c.part.linkFit % 4096 else 0]

/-- CORNER of point `i` (Tables 13-11, 13-12). -/
def ldtCorner (i : Nat) (k : Config.Corner) : List Nat :=
  ldtRecord 0x08 [k.mv <<< 16 + k.temp <<< 8 + i, k.bankPs <<< 16 + k.hs, k.spread <<< 16 + k.near, k.wake <<< 16 + k.far,
    k.fold <<< 16 + k.zone, k.mover <<< 16 + k.farCh]

/-- POWER_SEQ table 0 (R497). -/
def ldtPower (tiers : Nat) : List Nat :=
  let rows := [(0, 6, 0), (6, 30, 1), (36, 12, 2)] ++ (if 2 ≤ tiers then [(40, 12, 3)] else []) ++ (if 3 ≤ tiers then [(44, 12, 4)] else [])
    ++ [(56, 32, 5)]
  ldtRecord 0x09 ((rows.length <<< 8) :: rows.map (fun r => r.1 <<< 16 + r.2.1 <<< 8 + r.2.2))

def ldtSources (p : Part) : List Nat :=
  ldtRecord 0x0A ((List.range 8).map (fun w => (List.range 32).foldl (fun a i => if srcPresent p (32 * w + i) then a + 2 ^ i else a) 0))

/-- BOUNDS and LIMITS (Table 13-13). -/
def ldtBounds : List Nat :=
  ldtRecord 0x0B [40 <<< 16 + 250, 18 <<< 16 + 1260, 24 <<< 16 + 960, 29 <<< 16 + 804, 30 <<< 16 + 780, 20 <<< 16 + 4]
def ldtLimits (t : Nat) : List Nat :=
  ldtRecord 0x0C [Config.staticW t <<< 16 + Config.capW t, Config.scrubW <<< 16 + Config.ballastW t,
    Config.retUa105 t <<< 16 + Config.retUa85 t, 500 <<< 16 + 1200, 2400 <<< 16 + 1200, 800 <<< 16 + 2000]

/-- The records in the order of Table 13-3. -/
def ldtRecords (c : Ctl) : List (List Nat) :=
  (List.range c.part.tiers).map ldtTier ++ (List.range 16).map ldtZone ++ [ldtSliceMap c.part.tiers, ldtPool c, ldtPort c]
    ++ (List.range 4).map (ldtGroup c) ++ (List.range 8).map (fun i => ldtUnit c (i + 1))
    ++ Config.corners.zipIdx.map (fun k => ldtCorner k.2 k.1) ++ [ldtPower c.part.tiers, ldtSources c.part, ldtBounds, ldtLimits c.part.tiers]

/-- The table with its header (Table 13-1), `crc` in its place. -/
def ldtWith (c : Ctl) (crc : Nat) : List Nat :=
  let rs := ldtRecords c
  let body := rs.flatten
  [0x444C5242, 0x00200001, c.part.behaviour <<< 16 + c.part.compat, 4 * (8 + body.length), crc, rs.length, 0, 0] ++ body

/-- The layout descriptor table as built from the registers of `c` (R483..R497). -/
def ldtOf (c : Ctl) : List Nat :=
  let bytes := (ldtWith c 0).flatMap (fun w => [w % 256, w / 256 % 256, w / 65536 % 256, w / 16777216 % 256])
  ldtWith c (crc32 bytes)

/-- The layout descriptor table (R483..R497): without a valid image it reads as built from reset values, whatever MP has written (R486). -/
def ldt (c : Ctl) : List Nat := ldtOf (if c.dev.run = .noImage then { c with regs := [] } else c)

/-- BRL registers (Tables 12-13, 13-17). -/
def readBrl (c : Ctl) (o : Nat) : Word :=
  if o = 0x34 then BitVec.ofNat 32 (maskOf ((List.range 20).filter (domInReset c)))
  else if o = 0x14 then reg c brlUnitEn &&& BitVec.ofNat 32 ((c.part.linkFit % 4096) <<< 16 + c.part.units)
  else reg c (rg 0 o)

/-- THY registers (Tables 4-6..4-11). -/
def readThy (c : Ctl) (o : Nat) : Word :=
  if o = 0x100 then
    BitVec.ofNat 32 ((if c.frPace then 2 ^ 8 else 0) + maskOf ((List.range 4).filter (fun g => (grpOf c g).active)))
  else if 0x110 ≤ o ∧ o < 0x120 then BitVec.ofNat 32 (grpOf c ((o - 0x110) / 4)).tick
  else reg c (rg 1 o)

/-- CHV registers (Tables 5-6..5-11). -/
def readChv (c : Ctl) (o : Nat) : Word :=
  if 0x100 ≤ o ∧ o < 0x200 then
    let z := (o - 0x100) / 16
    let x := chvOf c z
    if o % 16 = 0 then
      BitVec.ofNat 32 ((x.e % 256) <<< 24 + rangesHeld c z <<< 16 + x.wc.length <<< 8 + (x.ends.length) <<< 4
        + (if c.port.reqs.any (fun r => decide (portCore r.port = some z ∧ r.range = .waiting)) then 1 else 0))
    else if o % 16 = 8 then setBits (reg c (chvInv z)) 16 5 x.invOut.length
    else reg c (rg 2 o)
  else reg c (rg 2 o)

/-- A word of Sorrel's state as the register at offset `o` shows it: as stored, with the flipped bits of an uncorrectable error among the bits
`mask` that hold state (R356). -/
def srlStored (c : Ctl) (o : Nat) (mask v : Word) : Word := if c.srl.dead then v ^^^ (Config.srlUpset c.srl.upset o &&& mask) else v

/-- The bits of word `k` of a barrier that show its state, or that of its waiters (Tables 9-12..9-14); the off view shows fewer of them. -/
def barMask (c : Ctl) (k : Nat) : Word :=
  if k = 0 then 0x000300FF#32
  else if dbgView c = 0 then (if k = 4 then 0x07130000#32 else 0)
  else if k = 4 then 0x0713FFFF#32
  else if k = 0x14 then 0x000000FF#32
  else if k = 0x18 then 0x000003FF#32
  else if k < 0x18 then 0xFFFFFFFF#32
  else 0

/-- SRL registers (Tables 9-9..9-15). -/
def readSrl (c : Ctl) (o : Nat) : Word :=
  if o = 0x08 then (if c.srl.dump.isSome then 0x80000000#32 else 0)
  else if 0x400 ≤ o ∧ o < 0x800 then
    srlStored c (rg 3 o) (if dbgView c = 0 then 0 else 0xE07F03FF#32) (wtWord c ((o - 0x400) / 0x40) ((o - 0x400) % 0x40 / 4))
  else if 0x8000 ≤ o ∧ o < 0xE800 then
    let n := (o - 0x8000) / 0x20
    let k := o % 0x20
    srlStored c (rg 3 o) (barMask c k)
      (if k = 0 then barCfgWord c n else if k = 4 then barStWord c n else if k = 8 then barWcWord c n
        else if k < 0x18 then barWqWord c n (k / 4 - 3) else if k = 0x18 then barLastWord c n else 0)
  else reg c (rg 3 o)

/-- LCK registers, read without a claim (Table 9-16, R475): the three views of a lock show one word. -/
def readLck (c : Ctl) (o : Nat) : Word :=
  if o < 0x300 then srlStored c (rg 4 (0x200 + o % 0x100)) 0x0000001F#32 (BitVec.ofNat 32 (tabGet 0 c.srl.lock (o % 0x100 / 4))) else 0

/-- MBX_ST[k], as stored. -/
def mbxStShown (c : Ctl) (k : Nat) : Word := srlStored c (rg 5 (16 * k + 4)) 0x00000007#32 (mbxStWord c k)

/-- MBX_DB (R369): the bit of a channel is its full bit. -/
def mbxDbWord (c : Ctl) : Word :=
  setBits (reg c mbxDb) 0 18 (maskOf ((List.range 18).filter (fun k => bit (mbxStShown c k) 0)))

/-- The level of Acien's mailbox interrupt (R369). -/
def acienMbxLevel (c : Ctl) : Bool := decide (mbxDbWord c &&& reg c mbxDbMask ≠ 0)

/-- MBX registers (Tables 9-17, 9-18). -/
def readMbx (c : Ctl) (o : Nat) : Word :=
  if o < 0x120 then
    let k := o / 16
    if o % 16 = 0 then srlStored c (rg 5 o) 0xFFFFFFFF#32 (chanOf c k).msg
    else if o % 16 = 4 then mbxStShown c k
    else if o % 16 = 8 then srlStored c (rg 5 o) 0xFFFFFFFF#32 (chanOf c k).ack
    else 0
  else if o = 0x200 then mbxDbWord c
  else if o = 0x204 then reg c mbxDbMask
  else 0

/-- FEN registers (R257..R260): absent parts read 0. -/
def readFen (c : Ctl) (o : Nat) : Word :=
  if o < 0x40 then (if fennelOn c then reg c (rg 6 o) else 0)
  else if o = 0x40 then (if fennelOn c || foldOn c then reg c fenQseed else 0)
  else if 0x80 ≤ o ∧ o < 0xC0 then (if fennelOn c then BitVec.ofNat 32 (tabGet 1 c.lfsrPort ((o - 0x80) / 4)) else 0)
  else 0

/-- RGN registers (Tables 2-4..2-7). -/
def readRgn (c : Ctl) (o : Nat) : Word :=
  if o = 0x04 then BitVec.ofNat 32 (spreadMib c)
  else if 0x40 ≤ o ∧ o < 0x80 then BitVec.ofNat 32 (popMib c ((o - 0x40) / 4) <<< 16 + nearMib c)
  else if 0x8000 ≤ o then
    let n := (o - 0x8000) / 4
    BitVec.ofNat 32 (regionFmt c n <<< 16 + regionClass c n <<< 8 + regionPool c n)
  else reg c (rg 7 o)

/-- MOV_QSTAT.state (Table 8-22). -/
def qState (c : Ctl) (q : Nat) : Nat :=
  let x := queueOf c q
  if x.tdTail.isSome ∧ !queueStopped c q then 5
  else
    match x.run with
    | some r => if r.wait.isSome then 3 else if r.op = 0x13 then 4 else 2
    | none => if !qEn c q then 0 else if x.head = qTail c q then 1 else 6

/-- MOV registers (Tables 8-14..8-22). -/
def readMov (c : Ctl) (o : Nat) : Word :=
  if o = 0x44 then BitVec.ofNat 32 (maskOf c.mov.sqIdle)
  else if o = 0x48 then BitVec.ofNat 32 (maskOf c.pin.hot)
  else if 0x80 ≤ o ∧ o < 0xD0 then setBits (reg c (rg 8 o)) 0 24 (hotUs c ((o - 0x80) / 4))
  else if 0x1000 ≤ o ∧ o < 0x2200 then
    let q := (o - 0x1000) / 0x40
    let x := queueOf c q
    if o % 0x40 = 0x18 then BitVec.ofNat 32 ((x.done % 65536) <<< 16 + x.head % 65536)
    else if o % 0x40 = 0x1C then
      BitVec.ofNat 32 ((match x.run with | some r => r.op | none => 0) <<< 8 + qState c q)
    else reg c (rg 8 o)
  else reg c (rg 8 o)

/-- LND registers (R335, Tables 8-23..8-25). -/
def readLnd (c : Ctl) (o : Nat) : Word :=
  if 0x1000 ≤ o ∧ o < 0x3000 then
    let w := (o - 0x1000) / 0x20
    let x := winOf c w
    let k := o % 0x20
    if k = 0x10 then BitVec.ofNat 32 x.rcv
    else if k = 0x14 then setBit (setBit (reg c (lndWctrl w)) 3 x.ref) 0 x.isOpen
    else if k = 0x18 then BitVec.ofNat 32 x.gen
    else if k = 0x1C then BitVec.ofNat 32 x.drop
    else reg c (rg 9 o)
  else reg c (rg 9 o)

/-- MIG registers (Table 10-8). -/
def readMig (c : Ctl) (o : Nat) : Word :=
  if 0x10 ≤ o ∧ o < 0x50 then
    let z := (o - 0x10) / 4
    let m := migOf c z
    BitVec.ofNat 32 ((if m.active then 2 ^ 31 else 0) + (if hasSpare c z then 0 else 2 ^ 30)
      + (if bit (reg c (migSt z)) 29 then 2 ^ 29 else 0) + m.slice <<< 20 + m.wm)
  else if 0x80 ≤ o ∧ o < 0x94 then
    BitVec.ofNat 32 (maskOf ((c.prt.retired.filter (fun p => decide (p / 32 = (o - 0x80) / 4))).map (fun p => p % 32)))
  else if 0x100 ≤ o ∧ o < 0x300 then BitVec.ofNat 32 (committed c ((o - 0x100) / 4))
  else 0

/-- PRT_LANE_ST (Table 10-7), lane fuses included (R532). -/
def laneWord (c : Ctl) (p t : Nat) : Word :=
  let x := laneOf c p t
  if c.part.tiers ≤ t then 0
  else BitVec.ofNat 32 ((if x.retrain then 2 ^ 21 else 0) + (if x.degraded then 2 ^ 20 else 0) + x.inUse <<< 18 + maskOf x.failed)

/-- PRT registers (Tables 10-4..10-7). -/
def readPrt (c : Ctl) (o : Nat) : Word :=
  if 0x60 ≤ o ∧ o < 0x70 then capWord c ((o - 0x60) / 4)
  else if 0x1000 ≤ o ∧ o < 0x16C0 then laneWord c ((o - 0x1000) / 4 / 3) ((o - 0x1000) / 4 % 3)
  else reg c (rg 11 o)

/-- The state field of a bank group (PWR_GRP_ST): 0 all ON, 1 some RET, 2 all RET, 3 OFF. -/
def groupState (c : Ctl) (z t : Nat) (near : Bool) : Nat :=
  let keys := (List.range 8).flatMap (fun i => (List.range (bankCount c)).map (fun b => (committed c (8 * z + i), b)))
  let mine := keys.filter (fun k => decide (groupOfBank c k.1 k.2 = some (z, t, near)))
  let sts := mine.map (fun k => (bankOf c k.1 k.2).st)
  if mine.isEmpty then 0
  else if sts.all (fun s => decide (s = .off)) then 3
  else if sts.all (fun s => decide (s = .on)) then 0
  else if sts.all (fun s => decide (s = .ret ∨ s = .waking)) then 2
  else 1

/-- PWR_ST (Table 11-11). -/
def pwrStWord (c : Ctl) : Word :=
  let v := reg c pwrSt
  match c.pwr.entry with
  | some e => setBits (setBits v 20 4 e.step) 16 2 2
  | none => setBits (setBits v 20 4 0) 16 2 (if c.pwr.idleState then 1 else 0)

/-- PWR registers (Table 11-11). -/
def readPwr (c : Ctl) (o : Nat) : Word :=
  if o = 0x04 then pwrStWord c
  else if 0x80 ≤ o ∧ o < 0xC0 then
    let z := (o - 0x80) / 4
    BitVec.ofNat 32 ((List.range c.part.tiers).foldl (fun a t =>
      a + groupState c z t false <<< (4 * t) + groupState c z t true <<< (4 * t + 2)) 0)
  else if o = 0x118 then BitVec.ofNat 32 c.rtc
  else if o = 0x128 then setBit (reg c pwrVret) 30 c.pwr.vretLp
  else reg c (rg 12 o)

/-- LOV registers (Table 11-12); power in whole W. LOV_LAUNCH and LOV_QUIET belong to the launch phase (R15, R444). -/
def readLov (c : Ctl) (o : Nat) : Word :=
  if launchOn c = false ∧ (o = 0x08 ∨ o = 0x0C) then 0
  else if o = 0x00 then (if launchOn c then reg c lovCfg else setBit (reg c lovCfg) 29 false)
  else if o = 0x100 then BitVec.ofNat 32 ((c.lov.est / 1000 % 1024) <<< 16 + c.lov.env / 1000 % 1024)
  else if o = 0x104 then BitVec.ofNat 32 ((c.lov.scrub / 1000 % 1024) <<< 16 + c.lov.act / 1000 % 1024)
  else if o = 0x108 then (match c.lov.plan with | some v => BitVec.ofNat 32 (2 ^ 31 + v % 1024) | none => 0)
  else if o = 0x10C then
    BitVec.ofNat 32 ((if 0 < c.lov.wait then 2 ^ 31 else 0) + (if c.pin.shed || dipActive c then 2 ^ 30 else 0) + c.lov.wait % 65536)
  else reg c (rg 13 o)

/-- EVC registers (Table 13-19). -/
def readEvc (c : Ctl) (o : Nat) : Word :=
  let e := c.evc
  if o = 0x00 then (if e.run then 1 else 0)
  else if o = 0x08 then BitVec.ofNat 32 (maskOf (e.ovf.filter (fun i => decide (i < 32))))
  else if o = 0x0C then BitVec.ofNat 32 (maskOf ((e.ovf.filter (fun i => decide (32 ≤ i))).map (fun i => i - 32)))
  else if o = 0x10 then e.enLo
  else if o = 0x14 then e.enHi
  else if 0x100 ≤ o ∧ o < 0x500 then
    let k := tabGet Ctr.rest e.ctr ((o - 0x100) / 16)
    if o % 16 = 0 then k.sel else if o % 16 = 4 then k.flt else if o % 16 = 8 then BitVec.ofNat 32 k.cnt else BitVec.ofNat 32 k.hi
  else if 0x800 ≤ o ∧ o < 0xA00 then
    let k := tabGet Ctr.rest e.ctr ((o - 0x800) / 8)
    if o % 8 = 0 then BitVec.ofNat 32 k.snap else BitVec.ofNat 32 (k.snap / 2 ^ 32)
  else 0

/-- The level of interrupt line `k` (R500). -/
def irqLine (c : Ctl) (k : Nat) : Bool :=
  (List.range 24).any (fun i => bit c.int.stat i && bit c.int.en i && decide (bits (c.int.map.getD (i / 8) 0) (4 * (i % 8)) 3 = k))

/-- INT registers (Table 13-18). -/
def readInt (c : Ctl) (o : Nat) : Word :=
  if o = 0x00 then c.int.stat
  else if o = 0x04 then c.int.en
  else if o = 0x08 then BitVec.ofNat 32 (maskOf ((List.range 8).filter (irqLine c)))
  else if 0x10 ≤ o ∧ o < 0x1C then c.int.map.getD ((o - 0x10) / 4) 0
  else 0

/-- The present word at offset `o` of block `i` (Table 13-16). -/
def blockWord (c : Ctl) (i o : Nat) : Word :=
  match i with
  | 0 => readBrl c o
  | 1 => readThy c o
  | 2 => readChv c o
  | 3 => readSrl c o
  | 4 => readLck c o
  | 5 => readMbx c o
  | 6 => readFen c o
  | 7 => readRgn c o
  | 8 => readMov c o
  | 9 => readLnd c o
  | 10 => readMig c o
  | 11 => readPrt c o
  | 12 => readPwr c o
  | 13 => readLov c o
  | 14 => readEvc c o
  | 15 => readInt c o
  | _ => 0

/-- The word that MP reads at offset `o` from 0xF_0000_0000, without side effects (R13, R46, R128, R483, R498). -/
def regWord (c : Ctl) (o : Nat) : Word :=
  if o % 4 ≠ 0 ∨ 0x200000 ≤ o then 0
  else if o < 0x100000 then BitVec.ofNat 32 ((ldt c).getD (o / 4) 0)
  else if regInReset c o then resetRead c o
  else blockWord c ((o - 0x100000) / 0x10000) (o % 0x10000)

end Sys2Proof.Machine
end

