-- ==== Sys2Proof/Machine/Mailbox.lean ====
section
/-! DEFINITION. Writes to the SRL, LCK and MBX registers, the Sorrel dump, mailbox messages and the commands of Acien firmware
(R339, R353, R356..R371). -/

namespace Sys2Proof.Machine

/-- Start a Sorrel dump for `reason` unless one is being written (R360, Table 9-9). -/
def dumpGo (reason : Nat) (c : Ctl) : Ctl :=
  if c.srl.dump.isSome then c else { c with srl := { c.srl with dump := some reason } }

/-- Byte offsets of the words of the dump, and the registers they hold (Table 9-6). -/
def dumpWords (c : Ctl) : List Nat :=
  let w (o : Nat) : Nat := (regWord c o).toNat
  (List.range 832).flatMap (fun n => (List.range 7).map (fun k => w (rg 3 (0x8000 + 0x20 * n + 4 * k))) ++ [0])
    ++ (List.range 256).map (fun i => w (rg 3 (0x400 + 4 * i)))
    ++ (List.range 64).map (fun i => w (rg 4 (0x200 + 4 * i)))
    ++ (List.range 18).flatMap (fun k => [w (rg 5 (16 * k)), w (rg 5 (16 * k + 4)), w (rg 5 (16 * k + 8)), 0])

/-- The dump (Table 9-6): its header, the zeros up to 0x40, and the objects as MP reads them. -/
def dumpBytes (c : Ctl) (reason : Nat) : List Byte :=
  [0x53, 0x52, 0x4C, 0x44] ++ leBytes 2 1 ++ leBytes 1 (bits (regWord c srlCfg) 0 2) ++ leBytes 1 reason ++ leBytes 6 c.rtc
    ++ List.replicate 50 0 ++ (dumpWords c).flatMap (leBytes 4)

/-- Write the Sorrel dump (R360). -/
def writeDump (reason : Nat) (s : State) : State := putBytes taDump (dumpBytes s.ctl reason) s

/-- A write to the SRL register at block offset `o` (R339, R356, R359, Tables 9-9..9-15); none changes a Sorrel that has stopped. -/
def srlWrite (o : Nat) (v : Word) (c : Ctl) : Ctl :=
  if c.srl.dead then c
  else if o = 0x08 then (if bit v 0 then dumpGo 1 c else c)
  else if 0x8000 ≤ o ∧ o < 0xE800 then
    if o % 0x20 = 0 then barArm ((o - 0x8000) / 0x20) v c
    else if o % 0x20 = 0x1C then forceWrite ((o - 0x8000) / 0x20) v c
    else c
  else writeStored (rg 3 o) v c

/-- Owner of a claim view (Table 9-7). -/
def lockOwner (a : Agent) (bmcView : Bool) : Nat :=
  match a with
  | .acien => 0x12
  | .mp => if bmcView then 0x11 else 0x10

/-- A write to the LCK register at block offset `o`: a release through a claim view (R363); LCK_STATE is read only. -/
def lckWrite (a : Agent) (o : Nat) (c : Ctl) : Ctl :=
  if o < 0x200 then lockFree (o % 0x100 / 4) (lockOwner a (decide (0x100 ≤ o))) c else c

/-- A read of the LCK register at block offset `o` (R362): a claim view claims, but of a Sorrel that has stopped (R356). -/
def lckRead (a : Agent) (o : Nat) (c : Ctl) : Word × Ctl :=
  if o < 0x200 ∧ c.srl.dead = false then
    let (v, c1) := lockClaim (o % 0x100 / 4) (lockOwner a (decide (0x100 ≤ o))) c
    (BitVec.ofNat 32 v, c1)
  else (readLck c o, c)

/-- A message reaches channel `k` (R366). -/
def chanSend (k : Nat) (v : Word) (c : Ctl) : Ctl :=
  let x := chanOf c k
  if x.full then setChan k { x with ovf := true } c
  else emit { evQ 0x5E k with zone := if 1 ≤ k ∧ k ≤ 16 then some (k - 1) else none } (setChan k { x with msg := v, full := true } c)

/-- A write to MBX_MSG[k] (R365, R366): the host's and the BMC's channels alone, from MP. -/
def msgWrite (a : Agent) (k : Nat) (v : Word) (c : Ctl) : Ctl :=
  if a = .mp ∧ (k = 0 ∨ k = 17) then chanSend k v c else c

/-- A write to MBX_ACK[k] (R367). -/
def ackWrite (a : Agent) (k : Nat) (v : Word) (c : Ctl) : Ctl :=
  match a with
  | .mp => c
  | .acien =>
    let x := chanOf c k
    if c.srl.dead then c
    else if !x.full then emit (evQ 0x60 k) c
    else
      let core := decide (1 ≤ k ∧ k ≤ 16)
      let c1 := emit (evQ 0x5F k) (setChan k { x with ack := v, full := false, ackv := !core } c)
      if core then drive (.mbAck (k - 1) v) c1 else if k = 0 then raiseInt 14 c1 else c1

/-- A write to the MBX register at block offset `o` (R365..R369, Tables 9-17, 9-18). -/
def mbxWrite (a : Agent) (o : Nat) (v : Word) (c : Ctl) : Ctl :=
  if c.srl.dead then c
  else if o < 0x120 then
    let k := o / 16
    if o % 16 = 0 then msgWrite a k v c
    else if o % 16 = 4 then
      let x := chanOf c k
      setChan k { x with ackv := x.ackv && !bit v 1, ovf := x.ovf && !bit v 2 } c
    else if o % 16 = 8 then ackWrite a k v c
    else c
  else if o = 0x200 then (match a with | .mp => writeStored mbxDb v c | .acien => c)
  else if o = 0x204 then (match a with | .acien => writeStored mbxDbMask v c | .mp => c)
  else if o = 0x208 then
    match a with
    | .acien => modReg mbxDb (fun d => setBits d 18 14 (bits d 18 14 &&& (2 ^ 14 - 1 - bits v 18 14))) c
    | .mp => c
  else c

/-- BARRIER_ARM (R339). -/
def execBarrierArm (a : Agent) (n : Nat) (v : Word) (s : State) : Ans :=
  if n < 832 then nextCtl (hubCtl a (rg 3 (0x8000 + 0x20 * n)) v (srlWrite (0x8000 + 0x20 * n) v)) s else .next s

/-- FORCE_SET (R359): a write to SRL_BAR_FORCE[n] with set = 1. -/
def execForceSet (a : Agent) (n : Nat) (v : Word) (s : State) : Ans :=
  if n < 832 then
    nextCtl (hubCtl a (rg 3 (0x801C + 0x20 * n)) (setBit v 31 true) (srlWrite (0x801C + 0x20 * n) (setBit v 31 true))) s
  else .next s

/-- FORCE_REL (R359): a write to SRL_BAR_FORCE[n] with rel = 1. -/
def execForceRel (a : Agent) (n : Nat) (v : Word) (s : State) : Ans :=
  if n < 832 then
    nextCtl (hubCtl a (rg 3 (0x801C + 0x20 * n)) (setBit v 30 true) (srlWrite (0x801C + 0x20 * n) (setBit v 30 true))) s
  else .next s

/-- BARRIER_BREAK (R353): a write to SRL_BAR_FORCE[n] with brk = 1. -/
def execBarrierBreak (a : Agent) (n : Nat) (v : Word) (s : State) : Ans :=
  if n < 832 then
    nextCtl (hubCtl a (rg 3 (0x801C + 0x20 * n)) (setBit v 29 true) (srlWrite (0x801C + 0x20 * n) (setBit v 29 true))) s
  else .next s

/-- SRL_DUMP_GO (R360): a write to SRL_DUMP with go = 1. -/
def execSrlDumpGo (a : Agent) (v : Word) (s : State) : Ans :=
  nextCtl (hubCtl a (rg 3 0x08) (setBit v 0 true) (srlWrite 0x08 (setBit v 0 true))) s

/-- SRL_DUMP_DONE (R360). -/
def execSrlDumpDone (s : State) : Ans :=
  match s.ctl.srl.dump with
  | none => .next s
  | some reason =>
    .next (if baseLogicOn s.ctl then
        ownWrite dumpTas (fun s => (writeDump reason s).onCtl (fun c => { c with srl := { c.srl with dump := none } })) s
      else s)

/-- LCK_CLAIM_READ (R362): a read of LCK_CLAIM[i], or of LCK_CLAIM_B[i]. -/
def execLckClaimRead (a : Agent) (bmcView : Bool) (i : Nat) (s : State) : Ans :=
  let o := (if bmcView then 0x100 else 0) + 4 * i
  if i < 64 then nextCtl (hubRead a (rg 4 o) (lckRead a o)) s else .next s

/-- LCK_CLAIM_WRITE (R363): a write of any value to LCK_CLAIM[i], or to LCK_CLAIM_B[i]. -/
def execLckClaimWrite (a : Agent) (bmcView : Bool) (i : Nat) (v : Word) (s : State) : Ans :=
  let o := (if bmcView then 0x100 else 0) + 4 * i
  if i < 64 then nextCtl (hubCtl a (rg 4 o) v (lckWrite a o)) s else .next s

/-- c_mb_rdy of core `z` (R366, R368, R468). -/
def mbReady (c : Ctl) (z : Nat) : Bool :=
  decide (z < 16) && coreOpen c z && !domInReset c 18 && !c.srl.dead && !(chanOf c (1 + z)).full

/-- MAILBOX_MESSAGE (R365, R366): on c_mb of core k - 1, or an MP write to MBX_MSG[k]. -/
def execMailboxMessage (viaCore : Bool) (k : Nat) (v : Word) (s : State) : Ans :=
  if viaCore then
    if 1 ≤ k ∧ k ≤ 16 then
      nextCtl (fun c => if mbReady c (k - 1) then chanSend k v c else noteWake 0 (113 + k) c) s
    else .next s
  else if k < 18 then nextCtl (hubCtl .mp (rg 5 (16 * k)) v (mbxWrite .mp (16 * k) v)) s
  else .next s

/-- MBX_ACK_WRITE (R367). -/
def execMbxAckWrite (a : Agent) (k : Nat) (v : Word) (s : State) : Ans :=
  if k < 18 then nextCtl (hubCtl a (rg 5 (16 * k + 8)) v (mbxWrite a (16 * k + 8) v)) s else .next s

/-- MBX_DB_SET (R369). -/
def execMbxDbSet (a : Agent) (v : Word) (s : State) : Ans := nextCtl (hubCtl a mbxDb v (mbxWrite a 0x200 v)) s

/-- MBX_DB_CLR (R369). -/
def execMbxDbClr (a : Agent) (v : Word) (s : State) : Ans := nextCtl (hubCtl a (rg 5 0x208) v (mbxWrite a 0x208 v)) s

/-- Acien can take the message of channel `k` whose command satisfies `f` (R367, R370): its answer is a register write, which waits for an access
that the hub holds (R39). -/
def takesMsg (c : Ctl) (k : Nat) (f : Nat → Bool) : Bool :=
  acienRuns c && decide (c.dev.hub = .idle) && !c.srl.dead && !domInReset c 18 && decide (k < 18) && (chanOf c k).full && f (bits (chanOf c k).msg 24 8)

/-- The argument of the message of channel `k`. -/
def msgArg (c : Ctl) (k : Nat) : Nat := bits (chanOf c k).msg 0 24

/-- Acien answers channel `k` with a return code and a value (R367, R370). -/
def answer (k code val : Nat) (c : Ctl) : Ctl := ackWrite .acien k (BitVec.ofNat 32 (code <<< 24 + val % 2 ^ 24)) c

/-- PING (Table 9-8). -/
def execPing (k : Nat) (s : State) : Ans :=
  nextCtl (fun c => if takesMsg c k (fun m => decide (m = 0x01)) then answer k 0 Config.firmwareBuild.toNat c else c) s

/-- DUMP (Table 9-8): the captured events go into the error log one after the other, then the Sorrel dump is written with reason 0x01. -/
def execDump (k : Nat) (s : State) : Ans :=
  if takesMsg s.ctl k (fun m => decide (m = 0x02)) then
    if s.ctl.prt.cap.isEmpty && s.ctl.prt.acien.isNone then
      .next (ownWrite dumpTas (fun s => (writeDump 1 s).onCtl (answer k 0 0)) s)
    else nextCtl logDrain s
  else .next s

/-- MIGRATE (Table 9-8): the request of R397, answered BUSY while a migration of the zone is active and REFUSED without a spare. -/
def execMigrate (k : Nat) (s : State) : Ans :=
  nextCtl (fun c =>
    if takesMsg c k (fun m => decide (m = 0x10)) then
      let x := msgArg c k % 128
      let code := if (migOf c (x / 8)).active then 3 else if hasSpare c (x / 8) then 0 else 4
      answer k code 0 (migRequest x c)
    else c) s

/-- SCRUB_REGION (Table 9-8): the region's lines are scrubbed one after the other, each as the slices' arbiters grant it (R389); the last one
brings the answer. Acien executes one such command at a time. -/
def execScrubRegion (k : Nat) (s : State) : Ans :=
  if takesMsg s.ctl k (fun m => decide (m = 0x11)) then
    let n := msgArg s.ctl k % 8192
    if regionPool s.ctl n = 2 then nextCtl (answer k 2 0) s
    else
      let x := s.ctl.prt.region.getD ⟨k, n, 0, 0, none⟩
      if x.chan ≠ k then .next s
      else
        let (x1, s1) := regionStep x (s.onCtl toSlices)
        .next (if (regionNext s1 x1).isNone then (s1.onCtl (setRegion none)).onCtl (answer k 0 x1.count) else s1)
  else .next s

/-- LOG_READ (Table 9-8): bits [23:0] of entry [15:0] of the error log, which Acien asks for on its private path. -/
def execLogRead (k : Nat) (s : State) : Ans :=
  nextCtl (fun c =>
    if takesMsg c k (fun m => decide (m = 0x12)) then
      let a := 0xE10000000 + 16 * (msgArg c k % 65536)
      let ask (c : Ctl) : Ctl := acienAsk (.read a) (a - a % 64) false .read c
      match c.prt.acien with
      | none => ask c
      | some ⟨.read b, some r⟩ =>
        if b = a then answer k 0 (leNat ((r.data.drop (a % 64)).take 3)) (setJob none c)
        else if readWanted c b then c else ask (setJob none c)
      | some _ => c
    else c) s

/-- UNKNOWN_COMMAND (Table 9-8). -/
def execUnknownCommand (k : Nat) (s : State) : Ans :=
  nextCtl (fun c => if takesMsg c k (fun m => !decide (m ∈ [0x01, 0x02, 0x10, 0x11, 0x12])) then answer k 1 0 c else c) s

end Sys2Proof.Machine
end

