-- ==== Sys2Proof/Machine/Units.lean ====
section
/-! DEFINITION. What a write does to a register of every block but BRL and PWR, interrupt tests and the event counters
(R12..R15, R128, R165, R258..R260, R328..R335, R409, R412, R500..R504). -/

namespace Sys2Proof.Machine

/-- A write to the FEN register at block offset `o` (R15, R258..R260). -/
def fenWrite (o : Nat) (v : Word) (c : Ctl) : Ctl :=
  if o = 0xC0 then reseedWrite v c
  else if o = 0x40 then (if fennelOn c || foldOn c then writeStored fenQseed v c else c)
  else if fennelOn c then writeStored (rg 6 o) v c
  else c

/-- A disabled queue forgets a record that it has fetched and not started; it is fetched again once en = 1 (R301). -/
def dropFetched (q : Nat) (c : Ctl) : Ctl := if !qEn c q && (queueOf c q).tdTail.isNone then dropRecord q c else c

/-- A write to a register of queue `q` (Tables 8-20..8-22, R334): base, size and completion base hold while en = 1. -/
def queueWrite (q k : Nat) (v : Word) (c : Ctl) : Ctl :=
  if k = 0x14 then tailWrite q v c
  else if k = 0x10 then
    let size := bits (reg c (movQctrl q)) 8 4
    let c1 := writeStored (movQctrl q) v c
    autoStart q (dropFetched q (if qEn c q then modReg (movQctrl q) (fun w => setBits w 8 4 size) c1 else c1))
  else if qEn c q then c
  else writeStored (movQ q k) v c

/-- A write to MOV_HOT_LAT (Tables 8-18, 8-19): the time HOT of a stack is cleared with its rose bit, and by a 1 written to a rose bit that is 0
already (DESIGN CHOICE, log 151). -/
def hotLatWrite (v : Word) (c : Ctl) : Ctl :=
  (List.range 20).foldl (fun c x =>
    if bit v x then
      { modReg (movPaceSt x) (fun w => setBits w 0 24 0) c with mov := { c.mov with hotSince := tabPut 0 x c.rtc c.mov.hotSince } }
    else c) (writeStored movHotLat v c)

/-- A write to the MOV register at block offset `o` (R333). -/
def movWrite (o : Nat) (v : Word) (c : Ctl) : Ctl :=
  if o = 0x10 then tdWrite v c
  else if o = 0x40 then quiesceWrite v c
  else if o = 0x4C then hotLatWrite v c
  else if 0x1000 ≤ o ∧ o < 0x2200 then queueWrite ((o - 0x1000) / 0x40) (o % 0x40) v c
  else writeStored (rg 8 o) v c

/-- A write to the LND register at block offset `o` (R328, R329): a window's range is written while it is CLOSED. -/
def lndWrite (o : Nat) (v : Word) (c : Ctl) : Ctl :=
  if 0x1000 ≤ o ∧ o < 0x3000 then
    let w := (o - 0x1000) / 0x20
    if o % 0x20 = 0x14 then lndCtrl w v c else if (winOf c w).isOpen then c else writeStored (rg 9 o) v c
  else writeStored (rg 9 o) v c

/-- A write to the PRT register at block offset `o` (R412): PRT_LOG_WP is written by Acien alone. -/
def prtWrite (a : Agent) (o : Nat) (v : Word) (c : Ctl) : Ctl :=
  if o = 0x40 ∧ a = .mp then c else writeStored (rg 11 o) v c

/-- Counter `i`. -/
def ctrOf (c : Ctl) (i : Nat) : Ctr := tabGet Ctr.rest c.evc.ctr i
def setCtr (i : Nat) (k : Ctr) (c : Ctl) : Ctl := { c with evc := { c.evc with ctr := tabPut Ctr.rest i k c.evc.ctr } }

/-- A write to EVC_CTRL (Table 13-19): a snapshot and a clear come at the end of the port cycle (R505). -/
def evcCtrl (v : Word) (c : Ctl) : Ctl :=
  { c with evc := { c.evc with run := bit v 0, snapDue := c.evc.snapDue || bit v 1, clrDue := c.evc.clrDue || bit v 2 } }

/-- A write to EVC_SEL[i] or, with `flt`, to EVC_FLT[i] (R504, Table 13-19). -/
def evcSelect (i : Nat) (flt : Bool) (v : Word) (c : Ctl) : Ctl :=
  let k := ctrOf c i
  if flt then setCtr i { k with flt := writeFields true 0xF000FFFF#32 v k.flt (fieldsIn c.part 14 0x104), cnt := 0 } c
  else setCtr i { k with sel := writeFields true 0 v k.sel (fieldsIn c.part 14 0x100), cnt := 0 } c

/-- A write to the EVC register at block offset `o` (R502..R505). -/
def evcWrite (o : Nat) (v : Word) (c : Ctl) : Ctl :=
  if o = 0x00 then evcCtrl v c
  else if o = 0x08 ∨ o = 0x0C then
    let base := if o = 0x08 then 0 else 32
    { c with evc := { c.evc with ovf := c.evc.ovf.filter (fun i => !(decide (base ≤ i ∧ i < base + 32) && bit v (i - base))) } }
  else if o = 0x10 then { c with evc := { c.evc with enLo := v } }
  else if o = 0x14 then { c with evc := { c.evc with enHi := v } }
  else if 0x100 ≤ o ∧ o < 0x500 ∧ o % 16 = 0 then evcSelect ((o - 0x100) / 16) false v c
  else if 0x100 ≤ o ∧ o < 0x500 ∧ o % 16 = 4 then evcSelect ((o - 0x100) / 16) true v c
  else c

/-- INT_SET (Table 13-18): raise every named cause. -/
def intSet (v : Word) (c : Ctl) : Ctl := (List.range 24).foldl (fun c n => if bit v n then raiseInt n c else c) c

/-- A write to the INT register at block offset `o` (R500, R501, Table 13-18): a cause raised in the present port cycle stays. -/
def intWrite (o : Nat) (v : Word) (c : Ctl) : Ctl :=
  if o = 0x00 then { c with int := { c.int with stat := writeFields true 0 v c.int.stat (fieldsIn c.part 15 0x00) ||| c.int.raised } }
  else if o = 0x04 then { c with int := { c.int with en := v &&& 0xFFFFFF#32 } }
  else if o = 0x0C then intSet v c
  else if o = 0x10 ∨ o = 0x14 ∨ o = 0x18 then
    { c with int := { c.int with map := listSet c.int.map ((o - 0x10) / 4) (v &&& 0x77777777#32) } }
  else c

/-- A write to the THY register at block offset `o` (R165). -/
def thyWrite (o : Nat) (v : Word) (c : Ctl) : Ctl :=
  if o = 0x1F0 then (List.range 4).foldl (fun c g => if bit v g then thyClear g c else c) c else writeStored (rg 1 o) v c

/-- A write to the RGN register at block offset `o` (R68..R73). -/
def rgnBlockWrite (a : Agent) (o : Nat) (v : Word) (c : Ctl) : Ctl :=
  if 0x8000 ≤ o then rgnWrite a ((o - 0x8000) / 4) v c else writeStored (rg 7 o) v c

/-- A write to the MIG register at block offset `o` (R397). -/
def migBlockWrite (o : Nat) (v : Word) (c : Ctl) : Ctl := if o = 0x00 then migWrite v c else writeStored (rg 10 o) v c

/-- A write to the LOV register at block offset `o`; those of the launch phase ignore writes where it is absent or disabled (R15). -/
def lovWrite (o : Nat) (v : Word) (c : Ctl) : Ctl :=
  if launchOn c = false ∧ (o = 0x08 ∨ o = 0x0C) then c else writeStored (rg 13 o) v c

/-- A write to a register of blocks 1..11 and 13..15, by its offset from 0xF_0000_0000. -/
def unitWrite (a : Agent) (o : Nat) (v : Word) (c : Ctl) : Ctl :=
  let k := o % 0x10000
  match (o - 0x100000) / 0x10000 with
  | 1 => thyWrite k v c
  | 2 => writeStored o v c
  | 3 => srlWrite k v c
  | 4 => lckWrite a k c
  | 5 => mbxWrite a k v c
  | 6 => fenWrite k v c
  | 7 => rgnBlockWrite a k v c
  | 8 => movWrite k v c
  | 9 => lndWrite k v c
  | 10 => migBlockWrite k v c
  | 11 => prtWrite a k v c
  | 13 => lovWrite k v c
  | 14 => evcWrite k v c
  | 15 => intWrite k v c
  | _ => c

/-- INT_SET (Table 13-18). -/
def execIntSet (a : Agent) (v : Word) (s : State) : Ans := nextCtl (hubCtl a (rg 15 0x0C) v (intWrite 0x0C v)) s

/-- EVC_SNAP (R505): a write to EVC_CTRL with snap = 1. -/
def execEvcSnap (a : Agent) (v : Word) (s : State) : Ans := nextCtl (hubCtl a (rg 14 0) v (evcCtrl (setBit v 1 true))) s

/-- EVC_CLR (R505): a write to EVC_CTRL with clr = 1. -/
def execEvcClr (a : Agent) (v : Word) (s : State) : Ans := nextCtl (hubCtl a (rg 14 0) v (evcCtrl (setBit v 2 true))) s

/-- EVC_SELECT_WRITE (R504). -/
def execEvcSelectWrite (a : Agent) (i : Nat) (flt : Bool) (v : Word) (s : State) : Ans :=
  if i < 64 then nextCtl (hubCtl a (rg 14 (0x100 + 16 * i + if flt then 4 else 0)) v (evcSelect i flt v)) s else .next s

end Sys2Proof.Machine
end

