-- ==== Sys2Proof/Machine/Power.lean ====
section
/-! DEFINITION. Policies of bank groups, wakes of banks, RUN, IDLE and SLEEP, and the supply monitors (R414..R437, R451, R454). -/

namespace Sys2Proof.Machine

/-- The banks in use: physical slice and bank. -/
def usedBanks (c : Ctl) : List (Nat × Nat) :=
  ((List.range Config.physicalSlices).filter (sliceUsed c)).flatMap (fun p => (List.range (bankCount c)).map (fun b => (p, b)))

/-- The banks of logical slices in use. -/
def groupBanks (c : Ctl) : List (Nat × Nat) := (usedBanks c).filter (fun k => (logicalOf c k.1).isSome)

/-- Some populated spread region is guarded (R419). -/
def spreadGuarded (c : Ctl) : Bool := (List.range 4096).any (fun n => decide (regionClass c n = 1))

/-- A group that may not be set OFF (R419). -/
def offRefused (c : Ctl) (z t : Nat) (near : Bool) : Bool := if near then decide (t = 0 ∧ z < 8) else spreadGuarded c

/-- The groups of a zone: tier and pool. -/
def zoneGroups (c : Ctl) : List (Nat × Bool) := (fitted c).flatMap (fun t => [(t, false), (t, true)])

/-- The word of PWR_GRP[z] after a write of `v`, and whether a field was refused (R419). -/
def grpAfter (c : Ctl) (z : Nat) (v : Word) : Word × Bool :=
  (zoneGroups c).foldl (fun (a : Word × Bool) g =>
    let lo := 4 * g.1 + (if g.2 then 2 else 0)
    let x := bits v lo 2
    if x = 3 ∧ policyOf c z g.1 g.2 ≠ 3 ∧ offRefused c z g.1 g.2 = true then (a.1, true) else (setBits a.1 lo 2 x, a.2))
    (reg c (pwrGrp z), false)

/-- The state that its group's policy gives a bank now; none where it stays as it is (R415, R418, R420; AUTO brings a bank that is OFF to ON). -/
def policyState (c : Ctl) (k : Nat × Nat) : Option BankSt :=
  let pol := bankPolicy c k.1 k.2
  if pol = 3 then some .off
  else if idleBank c k.1 || decide (pol = 2) then some .ret
  else if pol = 0 ∨ (bankOf c k.1 k.2).st = .off then some .on
  else none

/-- The moves of the banks of `ks` to the states their policies give. -/
def policyMoves (c : Ctl) (ks : List (Nat × Nat)) : List (Nat × BankSt) :=
  ks.filterMap (fun k => match policyState c k with
    | some d => if (bankOf c k.1 k.2).st = d then none else some (bankKey k.1 k.2, d)
    | none => none)

/-- Moves ordered before for the banks of `ks` are ordered no more: their policies have changed since (R418, log 130). -/
def cancelMoves (ks : List (Nat × Nat)) (c : Ctl) : Ctl :=
  { c with pwr := { c.pwr with moves := c.pwr.moves.filter (fun m => !ks.any (fun k => decide (bankKey k.1 k.2 = m.key))) } }

/-- Order the banks of `ks` to the states that their policies give them now. -/
def orderBanks (waited : Bool) (ks : List (Nat × Nat)) (c : Ctl) : Ctl := orderMoves waited (policyMoves c ks) (cancelMoves ks c)

/-- Order the banks of `ks` to the states that their policies give them now; an MP write waits until the moves have happened (R418, R420). -/
def orderFor (a : Agent) (ks : List (Nat × Nat)) (s : State) : State :=
  let s1 := settle (s.onCtl (orderBanks (decide (a = .mp)) ks))
  if a = .mp ∧ s1.ctl.pwr.moves.any Move.waited = true then s1.onCtl (fun c => { c with dev := { c.dev with hub := .power } }) else s1

/-- A write to PWR_GRP[z] (R415, R418, R419). -/
def grpWrite (a : Agent) (z : Nat) (v : Word) (s : State) : State :=
  let c := s.ctl
  let (w, refused) := grpAfter c z v
  let s1 := s.onCtl (fun c => setReg (pwrGrp z) w (if refused then latchPwr 3 c else c))
  let changed (k : Nat × Nat) : Bool := match groupOfBank c k.1 k.2 with
    | some (y, t, near) => decide (y = z ∧ policyOf c z t near ≠ policyOf s1.ctl z t near)
    | none => false
  orderFor a ((groupBanks c).filter changed) s1

/-- The device state changes to RUN or IDLE (R420): banks of IDLE zones go to RET, and those whose policy is ON wake again. -/
def stateChange (a : Agent) (idle : Bool) (s : State) : State :=
  let s1 := s.onCtl (fun c => { c with pwr := { c.pwr with idleState := idle } })
  let c := s1.ctl
  orderFor a ((groupBanks c).filter (fun k => idleBank c k.1 || decide (bankPolicy c k.1 k.2 = 0))) s1

/-- PWR_SLEEP_LAST (Table 11-11). -/
def sleepLast (kind step cls index : Nat) (c : Ctl) : Ctl :=
  setReg pwrSleepLast (BitVec.ofNat 32 (kind <<< 31 + step <<< 28 + cls <<< 26 + index)) c

/-- Banks return to their states of before step 4; wakes are paced (R428). -/
def undoRet (e : Entry) (s : State) : State :=
  if e.banks.isEmpty then s
  else settle (s.onCtl (orderMoves false (e.banks.map (fun p => (p.1, BankSt.on)))))

/-- SLEEP entry ends (R428): the save area is invalid, Sorrel applies operations again, queues go on with what they have fetched (R303, R306),
and ports, links and interfaces reopen, the ports with no response credit (R106). -/
def entryOver (c : Ctl) : Ctl :=
  let c1 := { c with pwr := { c.pwr with entry := none, saved := none, saveCrc := none }, port := { c.port with credit := [] } }
  let c2 := (List.range 16).foldl (fun c z => sorrelDrain 16 z c) c1
  pump (landPump ((c2.mov.q.map Prod.fst).foldl (fun c q => autoStart q c) c2))

/-- A reset or a fatal condition ends a SLEEP entry (R472, R476). -/
def dropEntry (c : Ctl) : Ctl := if c.pwr.entry.isSome then entryOver c else c

/-- SLEEP entry is refused at its step (R425). -/
def sleepRefuse (cls index : Nat) (e : Entry) (s : State) : State :=
  (undoRet e s).onCtl (fun c =>
    entryOver (emit (evQ 0x85 e.step) (latchPwr 0 (sleepLast 0 e.step cls index (bumpSat pwrSleepCnt 0 16 c)))))

/-- SLEEP entry is abandoned at an abort point (R428). -/
def sleepAbort (w : Nat × Nat) (e : Entry) (s : State) : State :=
  (undoRet e s).onCtl (fun c =>
    entryOver (emit (evQ 0x86 e.step) (latchPwr 0 (sleepLast 1 e.step w.1 w.2 (bumpSat pwrSleepCnt 16 16 c)))))

/-- The first zone with a migration active (R405). -/
def migZone (c : Ctl) : Option Nat := (List.range 16).find? (fun z => (migOf c z).active)

/-- A write of req = SLEEP (R425): entry begins at step 1; an active migration refuses it, the WC buffers flush. A beat that waits at a link is a
wake event from the first (R427). -/
def sleepStart (s : State) : State :=
  let e : Entry := ⟨1, s.ctl.rtc, none, []⟩
  let s1 := s.onCtl (fun c => emit (evQ 0x84 0) { c with pwr := { c.pwr with entry := some e } })
  match migZone s.ctl with
  | some z => sleepRefuse 2 z e s1
  | none => s1.onCtl (fun c =>
      let c1 := (List.range 16).foldl (fun c z => flushWhere z 6 (fun _ => true) c) c
      match c1.lnd.inbox with
      | b :: _ => noteWake 0 (100 + b.link) c1
      | [] => c1)

/-- A write to PWR_CTRL (R420, R425, R427); a reserved req acts as RUN (R14). During SLEEP entry it is a wake event only. -/
def pwrCtrlWrite (a : Agent) (v : Word) (s : State) : State :=
  let s1 := s.onCtl (writeStored pwrCtrl v)
  if s.ctl.dev.run ≠ .running then s1
  else if s.ctl.pwr.entry.isSome then s1.onCtl (noteWake 3 (match a with | .mp => 5 | .acien => 1))
  else if bits v 0 2 = 2 then sleepStart s1
  else stateChange a (decide (bits v 0 2 = 1)) s1

/-- A write to PWR_SUP_ST (Table 11-11): a cleared warning returns its lowest value to 0xFF. -/
def supStWrite (v : Word) (c : Ctl) : Ctl :=
  let clr (i lo : Nat) (old w : Word) : Word := if bit old (24 + i) && !bit w (24 + i) then setBits w lo 8 0xFF else w
  let old := reg c pwrSupSt
  modReg pwrSupSt (fun w => clr 1 8 old (clr 0 0 old w)) (writeStored pwrSupSt v c)

/-- BANK_IDLE_RET (R415, R416): PWR_IDLE_US µs without an access. -/
def bankIdle (p b : Nat) (s : State) : State :=
  let x := bankOf s.ctl p b
  if s.ctl.dev.run = .running ∧ b < bankCount s.ctl ∧ x.st = .on ∧ x.forCopy = false ∧ idlesToRet s.ctl p b = true
      ∧ x.last + bits (reg s.ctl pwrIdleUs) 0 16 ≤ s.ctl.rtc then bankTo p b .ret s
  else s

/-- A move of the bank to ON has been ordered (R420, R433). -/
def movesOn (c : Ctl) (p b : Nat) : Bool := c.pwr.moves.any (fun m => decide (m.key = bankKey p b ∧ m.dst = .on))

/-- Qualifier of a wake: 0 access, 1 policy or device state, 2 migration copy (Table 13-20); that of a bank and its twin is one (R403). A wake
that anything but an ordered move asks for is an access's (R416, R421). -/
def wakeQual (c : Ctl) (p b : Nat) : Nat :=
  let ps := withTwin c p
  if ps.any (fun x => (bankOf c x b).forCopy) then 2
  else if ps.any (fun x => movesOn c x b) && !ps.any (fun x => (bankOf c x b).want) then 1 else 0

/-- The leakage rise of `n` more policy wakes in this interval stays within the up slope; at least one begins in each (R421). -/
def paceAllows (c : Ctl) (n : Nat) : Bool :=
  decide (c.lov.paced = 0
    ∨ (c.lov.paced + n) * (bits (reg c lovLeakOn) 0 16 - bits (reg c lovLeakRet) 0 16) ≤ 50000 * bits (reg c lovCfg) 0 7)

/-- BANK_WAKE (R400, R403, R416, R421, R435): a bank in RET that is wanted, or ordered to ON, begins to wake, and its twin with it; none does
once step 4 of SLEEP entry has put the banks onto VRET (R422, Table 11-2). -/
def bankWake (p b : Nat) (c : Ctl) : Ctl :=
  let x := bankOf c p b
  let q := wakeQual c p b
  let ps := (withTwin c p).filter (fun y => decide ((bankOf c y b).st = .ret))
  if x.st = .ret ∧ (x.want || movesOn c p b) = true ∧ c.pwr.freeze = [] ∧ (c.dev.run = .running ∨ c.dev.run = .starting)
      ∧ c.pwr.entry.any (fun e => decide (4 < e.step)) = false ∧ (q = 1 → paceAllows c ps.length = true) then
    let c1 := ps.foldl (fun c y => emit { evZ 0x80 (y / 9) with qual := q } (setBank y b { bankOf c y b with st := .waking } c)) c
    if q = 1 then { c1 with lov := { c1.lov with paced := c1.lov.paced + ps.length } } else c1
  else c

/-- BANK_WAKE_DONE (R414, R424): a bank that was waking is ON, and its twin with it (R403). -/
def bankWoken (p b : Nat) (s : State) : State :=
  if (bankOf s.ctl p b).st = .waking then
    (settle (((withTwin s.ctl p).filter (fun y => decide ((bankOf s.ctl y b).st = .waking))).foldl (fun s y => bankUp y b s) s)).onCtl pump
  else s

/-- Port `i` of R451, class 0, or the interfaces of core `i - 114`, has outstanding work (Table 11-2). -/
def portBusy (c : Ctl) (i : Nat) : Bool :=
  c.port.reqs.any (fun r => decide (portIndex r.port = i) && !r.answeredAll)
    || (decide (80 ≤ i ∧ i < 100) && !(saOut c (.sp (i - 80))).isEmpty)
    || (decide (100 ≤ i ∧ i < 112) && c.lnd.land.any (fun x => decide (x.link = i - 100)))
    || (decide (i = 112) && !(saOut c .hpo).isEmpty)
    || (decide (114 ≤ i ∧ i < 130) &&
      (let x := chvOf c (i - 114)
       !x.ends.isEmpty || !x.gone.isEmpty || !x.dbs.isEmpty || decide (0 < syTaken c (i - 114))))

/-- Port index of R451, class 0, of the first port or core interface with outstanding work. -/
def drainPort (c : Ctl) : Option Nat := (List.range 130).find? (portBusy c)

/-- The access is one of a port's requests or of the landing unit. -/
def ofPort (o : LineOp) : Bool :=
  match o.owner with
  | .req _ _ => true
  | .wc _ _ => true
  | .land _ => true
  | _ => false

/-- Step 1 is complete (Table 11-2). -/
def portsDrained (c : Ctl) : Bool :=
  (drainPort c).isNone && !c.port.ops.any ofPort && !c.port.parity.any (fun j => ofPort j.op) && c.chv.all (fun p => p.2.wc.isEmpty)

/-- Queue `q` has work (Table 11-2): commands to come, one that runs, or one whose completion record is on its way. -/
def queueBusy (c : Ctl) (q : Nat) : Bool :=
  let x := queueOf c q
  (qEn c q && decide (x.head ≠ qTail c q)) || x.run.isSome || x.asked || !x.fin.isEmpty

/-- What refuses step 2 (Table 11-2): a queue, the landing unit, Chervil. -/
def quiesceRefuser (c : Ctl) : Option (Nat × Nat) :=
  match (List.range 72).find? (queueBusy c) with
  | some q => some (1, q)
  | none =>
    if c.lnd.win.any (fun p => p.2.isOpen) then some (3, 0)
    else if c.chv.any (fun p => !p.2.invQ.isEmpty || !p.2.invOut.isEmpty) then some (3, 4)
    else none

/-- Acien is executing a mailbox command: it runs, and a channel waits for its answer. -/
def acienBusy (c : Ctl) : Bool := acienRuns c && c.srl.mbx.any (fun p => p.2.full)

/-- The bank belongs to the keep-set (R422). -/
def keptBank (c : Ctl) (k : Nat × Nat) : Bool :=
  match groupOfBank c k.1 k.2 with
  | some (z, t, near) => isCarved z k.2 || bit (reg c (pwrKeep z)) (2 * t + if near then 1 else 0)
  | none => false

/-- The step of the entry ends well: the next one begins. -/
def entryNext (e : Entry) (c : Ctl) : Ctl := { c with pwr := { c.pwr with entry := some { e with step := e.step + 1 } } }

/-- The abort point of a step (R428). -/
def abortPoint (e : Entry) (s : State) : State :=
  match e.wake with
  | some w => sleepAbort w e s
  | none => s.onCtl (entryNext e)

/-- The output levels of the present moment. -/
def levelsNow (c : Ctl) : Levels :=
  ⟨c.out.ready, c.out.fatal, c.out.rstAck, c.out.rstReq, (List.range 8).filter (irqLine c),
    (List.range 4).map (fun g => ((grpOf c g).active, (grpOf c g).tick))⟩

/-- The levels of outputs that are undefined after a clock change (R511, log 40). -/
def levelsVague (c : Ctl) : Levels :=
  let b := Config.vagueBit c.pc
  ⟨b 0, b 1, b 2, (List.range 16).filter (fun z => b (16 + z)), (List.range 8).filter (fun k => b (32 + k)),
    (List.range 4).map (fun g => (b (40 + g), (Config.vagueTick c.pc g).toNat))⟩

/-- The levels that Brural drives (R433): those latched in SLEEP until isolation is released; c_rst_req of a clamped zone stands at its reset
value (R473); all of them undefined after a clock change outside reset (R511). -/
def levelsOut (c : Ctl) : Levels :=
  if c.out.vague then levelsVague c
  else
    let l := c.pwr.latch.getD (levelsNow c)
    { l with rstReq := (List.range 16).filter (fun z => l.rstReq.contains z || isolated c z) }

/-- What step 3 writes to the save area (Table 11-2); the time HOT counted so far is in its register (R333). -/
def savedNow (c : Ctl) : Saved :=
  let c1 := c.pin.hot.foldl (fun c s => foldHot s c) c
  ⟨c1.regs, c.int, c.evc, c.grp, c.chv, c.srl, c.lfsrPort, c.lfsrQ, c.lfsrHp, c.mov, c.lnd, c.lov, c.prt.cap, c.prt.logLast, c.prt.lane⟩

/-- Step 3 (R425, Table 11-2): the save area holds a new image, valid until the entry is undone, and the island its CRC-32. -/
def sleepSave (s : State) : State :=
  let (g, c) := freshFree s.ctl
  { s with ctl := { c with pwr := { c.pwr with saved := some (savedNow c), saveCrc := some (Config.saveCrc g) } } }.onStore (Store.save g)

/-- The zero-bit groups of the save area (R426), by their first line. -/
def saveLocs : List Loc := (List.range 64).flatMap (fun s => (List.range 4).map (fun i => ⟨s, 15, 256 + 64 * i⟩))

/-- The banks of the save area can be written: each is OFF, or awake with its bundles trained (R16, R395). -/
def saveReady (c : Ctl) : Bool := saveLocs.all (fun l => match avail c l true with | .wait _ => false | _ => true)

/-- A bank as step 5 of SLEEP entry leaves it: OFF outside the keep-set, and in RET within it, but where it is OFF already (R422). -/
def sleepBank (s : State) (k : Nat × Nat) : State :=
  if !keptBank s.ctl k then bankTo1 k.1 k.2 .off s
  else if (bankOf s.ctl k.1 k.2).st = .off then s
  else bankTo1 k.1 k.2 .ret s

/-- Step 5 (Table 11-2): outputs latched, banks outside the keep-set OFF, VRET in low-power mode, power removed. -/
def sleepEnter (s : State) : State :=
  let c := s.ctl
  let s1 := (groupBanks c).foldl sleepBank s
  s1.onCtl (fun c =>
    let c1 := modReg pwrSt (fun v => setBit v 31 true) c
    { c1 with
      prt := { c1.prt with tagWait := [] }
      pwr := { c1.pwr with entry := none, vretLp := true, moves := [], keepSplit := reg c1 rgnSplit, latch := some (levelsNow c) }
      out := { c1.out with aonSleep := true }
      dev := { c1.dev with run := .asleep } })

/-- SLEEP_STEP_END (R405, R425, R428, R429, Table 11-2): the present step ends, is refused, or is abandoned at its abort point. Step 3 waits
until the save area's banks can be written (R395). -/
def sleepStepEnd (s : State) : State :=
  match s.ctl.pwr.entry with
  | none => s
  | some e =>
    match if e.step ≤ 3 then migZone s.ctl else none with
    | some z => sleepRefuse 2 z e s
    | none =>
      if e.step = 1 then (if portsDrained s.ctl then abortPoint e s else s)
      else if e.step = 2 then
        match quiesceRefuser s.ctl with
        | some (cls, i) => sleepRefuse cls i e s
        | none => if s.ctl.port.ops.isEmpty && s.ctl.port.parity.isEmpty then abortPoint e s else s
      else if e.step = 3 then
        if acienBusy s.ctl then sleepRefuse 3 1 e s
        else if !(s.ctl.port.ops.isEmpty && s.ctl.port.parity.isEmpty) then s
        else if saveReady s.ctl then abortPoint e (sleepSave s)
        else s.onCtl (fun c => saveLocs.foldl (fun c l => wantWake l c) c)
      else if e.step = 4 then
        let on := (usedBanks s.ctl).filter (fun k => decide ((bankOf s.ctl k.1 k.2).st = .on ∨ (bankOf s.ctl k.1 k.2).st = .waking))
        let e1 := { e with banks := on.map (fun k => (bankKey k.1 k.2, bankOf s.ctl k.1 k.2)) }
        abortPoint e1 (on.foldl (fun s k => bankTo1 k.1 k.2 .ret s) s)
      else sleepEnter s

/-- SLEEP_DRAIN_TIMEOUT (R425). -/
def sleepDrainTimeout (s : State) : State :=
  match s.ctl.pwr.entry with
  | none => s
  | some e =>
    match drainPort s.ctl with
    | some i =>
      if e.step = 1 ∧ e.since + bits (reg s.ctl pwrSleepCfg) 0 12 ≤ s.ctl.rtc then sleepRefuse 0 i e s else s
    | none => s

/-- A wake source of R427 in the encoding of R451. -/
def wakeSource (cls index : Nat) : Bool :=
  decide ((cls = 0 ∧ (index < 80 ∨ (100 ≤ index ∧ index < 113) ∨ (114 ≤ index ∧ index < 130))) ∨ (cls = 3 ∧ (index = 5 ∨ index = 6)))

/-- PWR_ALARM. -/
def alarmAt (c : Ctl) : Nat := bits (reg c pwrAlarmHi) 0 16 * 2 ^ 32 + (reg c pwrAlarmLo).toNat

/-- Both rails have stood at or above their warning levels for 10 µs (R520). -/
def railsSteady (c : Ctl) : Bool :=
  decide (Config.warnA ≤ c.pin.mvA ∧ Config.warnB ≤ c.pin.mvB ∧ c.pwr.okSinceA + 10 ≤ c.rtc ∧ c.pwr.okSinceB + 10 ≤ c.rtc)

/-- RTC_ALARM (R427, R430, R432): it ends SLEEP, or is a wake event during entry. VRET returns to normal mode at once where the rails allow the
exit to begin (R520). -/
def rtcAlarm (c : Ctl) : Ctl :=
  if bit (reg c pwrAlarmHi) 31 = true ∧ alarmAt c ≤ c.rtc then
    if c.dev.run = .asleep then
      { c with
        dev := { c.dev with run := .waking }, pwr := { c.pwr with vretLp := !railsSteady c }, out := { c.out with aonSleep := false } }
    else noteWake 3 6 c
  else c

/-- A rail reports a level. -/
def railLevel (r : Rail) (mv : Nat) (c : Ctl) : Ctl :=
  match r with
  | .vddA => supplyLevels mv c.pin.mvB c
  | .vddB => supplyLevels c.pin.mvA mv c

/-- SUPPLY_WARN (R434, R435); the monitors take no action in SLEEP (R430). -/
def supplyWarn (r : Rail) (mv : Nat) (c : Ctl) : Ctl := if railWarn r ≤ mv then c else railLevel r mv c

/-- WAKE_FREEZE_END (R435). -/
def freezeEnd (r : Rail) (c : Ctl) : Ctl :=
  let since := if r = .vddA then c.pwr.okSinceA else c.pwr.okSinceB
  if railWarn r ≤ railMv c r ∧ since + bits (reg c pwrSupCfg) 0 8 ≤ c.rtc then
    { c with pwr := { c.pwr with freeze := c.pwr.freeze.filter (fun i => decide (i ≠ railIdx r)) } }
  else c

/-- VAO_WARN (R436): PWR_SUP_ST is the island's; SUPPLY_WARN comes at once, or once MP opens after SLEEP. -/
def vaoWarn (mv : Nat) (c : Ctl) : Ctl :=
  if mv < Config.warnVao ∧ c.dev.run ≠ .island then warnRaise 2 (modReg pwrSupSt (fun v => setBit v 26 true) c) else c

/-- VRET_LOST (R424): the banks on VRET are marked LOST, and counted by zone (R455). -/
def vretLost (c : Ctl) : Ctl :=
  let ks := (usedBanks c).filter (fun k => decide ((bankOf c k.1 k.2).st = .ret))
  let c1 := ks.foldl (fun c k => emit (evZ 0x88 (k.1 / 9)) (setBank k.1 k.2 { bankOf c k.1 k.2 with lost := true } c)) c
  modReg pwrVret (fun v => setBits (setBit v 31 true) 0 16 ks.length) c1

/-- PWR_GRP_WRITE (R415, R418, R419). -/
def execPwrGrpWrite (a : Agent) (z : Nat) (v : Word) (s : State) : Ans :=
  if z < 16 then .next (hubWrite a (pwrGrp z) v (grpWrite a z v) s) else .next s

def execBankIdleRet (p b : Nat) (s : State) : Ans := .next (bankIdle p b s)
def execBankWake (p b : Nat) (s : State) : Ans := nextCtl (bankWake p b) s
def execBankWakeDone (p b : Nat) (s : State) : Ans := .next (bankWoken p b s)

/-- RUN (R420): a write of PWR_CTRL with req = RUN. -/
def execRun (a : Agent) (v : Word) (s : State) : Ans :=
  .next (hubWrite a pwrCtrl (setBits v 0 2 0) (pwrCtrlWrite a (setBits v 0 2 0)) s)

/-- IDLE (R420): a write of PWR_CTRL with req = IDLE. -/
def execIdle (a : Agent) (v : Word) (s : State) : Ans :=
  .next (hubWrite a pwrCtrl (setBits v 0 2 1) (pwrCtrlWrite a (setBits v 0 2 1)) s)

/-- SLEEP (R425): a write of PWR_CTRL with req = SLEEP. -/
def execSleep (a : Agent) (v : Word) (s : State) : Ans :=
  .next (hubWrite a pwrCtrl (setBits v 0 2 2) (pwrCtrlWrite a (setBits v 0 2 2)) s)

def execSleepStepEnd (s : State) : Ans := .next (sleepStepEnd s)
def execSleepDrainTimeout (s : State) : Ans := .next (sleepDrainTimeout s)

/-- SLEEP_WAKE_EVENT (R427). -/
def execSleepWakeEvent (cls index : Nat) (s : State) : Ans :=
  nextCtl (fun c => if wakeSource cls index then noteWake cls index c else c) s

def execRtcAlarm (s : State) : Ans := nextCtl rtcAlarm s

def execSupplyWarn (r : Rail) (mv : Nat) (s : State) : Ans := nextCtl (supplyWarn r mv) s
def execWakeFreezeEnd (r : Rail) (s : State) : Ans := nextCtl (freezeEnd r) s
def execVaoWarn (mv : Nat) (s : State) : Ans := nextCtl (vaoWarn mv) s
def execVretLost (s : State) : Ans := nextCtl vretLost s

end Sys2Proof.Machine
end

