-- ==== Sys2Proof/Machine/Lovage.lean ====
section
/-! DEFINITION. Lovage: the estimate, the envelope, ballast, the launch phase and admission, once per RTC microsecond (R438..R448,
R452, R453, R455). Powers are in mW. -/

namespace Sys2Proof.Machine

/-- Banks of slices in use that are in state `st`. -/
def bankTally (c : Ctl) (st : BankSt) : Nat :=
  (c.pwr.bank.filter (fun p => sliceUsed c (p.1 / 48) && decide (p.1 % 48 < bankCount c ∧ p.2.st = st))).length

/-- Banks in use: those of the 128 slices of the committed table, and of every spare that a migration fills. -/
def bankTotal (c : Ctl) : Nat :=
  bankCount c * (Config.logicalSlices + (c.prt.mig.filter (fun p => p.2.active)).length)

/-- n_ON and n_RET (R438): a waking bank leaks as an ON bank. -/
def nRet (c : Ctl) : Nat := bankTally c .ret
def nOn (c : Ctl) : Nat := bankTotal c - nRet c - bankTally c .off

/-- The static term (R438, R439). -/
def staticMw (c : Ctl) : Nat :=
  bits (reg c lovLeakBase) 0 16 + (nOn c * bits (reg c lovLeakOn) 0 16 + nRet c * bits (reg c lovLeakRet) 0 16) / 1000

/-- Row of Table 11-7 of a source: groups 0..3, and 4 for the device profile. -/
def rowOf (c : Ctl) (i : Nat) : Nat := if profileOf c i = 1 then 2 else if profileOf c i = 2 then 3 else 4

/-- The sources in the order of Table 11-7. -/
def sourceOrder (c : Ctl) : List Nat := [2, 3, 4].flatMap (fun row => (List.range 5).filter (fun i => decide (rowOf c i = row)))

/-- What source `i` has taken and not been charged with (R439, log 115). -/
def owedOf (c : Ctl) (i : Nat) : Nat := tabGet 0 c.lov.spent i + tabGet 0 c.lov.carry i

/-- What source `i` is charged with in this interval, when the sources before it have been charged `used`: all that it has taken, but for a
Steady or Lean source no more than its share and the room of its row (log 115). -/
def chargeOf (c : Ctl) (used i : Nat) : Nat :=
  if rowOf c i = 2 then owedOf c i
  else
    let x := match tabFind c.lov.share i with | some k => min k (owedOf c i) | none => owedOf c i
    match tabFind c.lov.room i with | some k => min (k - used) x | none => x

/-- The charges of the interval and their sum, in 0.01 pJ. -/
def charges (c : Ctl) : Tab Nat × Nat :=
  (sourceOrder c).foldl (fun a i => let k := chargeOf c a.2 i; (tabPut 0 i k a.1, a.2 + k)) ([], 0)

/-- What each source is still to be charged with. -/
def carriedOver (c : Ctl) : Tab Nat :=
  (List.range 5).foldl (fun t i => tabPut 0 i (owedOf c i - tabGet 0 (charges c).1 i) t) []

/-- What all sources are charged with in the interval, and the static term. -/
def admittedMw (c : Ctl) : Nat := staticMw c + (charges c).2 / 100000

/-- The estimate of the events counted in the interval, and the static term (R438). -/
def countedMw (c : Ctl) : Nat := staticMw c + c.lov.tok / 100000

/-- The cap in mW (R448). -/
def capMw (c : Ctl) : Nat := 1000 * bits (reg c lovCap) 0 10

/-- Some Sprint or Lean source is charged in the interval. -/
def risesPast (c : Ctl) : Bool := (List.range 5).any (fun i => decide (rowOf c i ≠ 4 ∧ 0 < tabGet 0 (charges c).1 i))

/-- What the estimate of the interval can reach (R440, R441, R448, R517): the envelope, past it what Sprint and Lean sources have been admitted,
and never past the cap; with en = 0 the cap alone. -/
def limitMw (c : Ctl) : Nat :=
  min (capMw c) (if bit (reg c lovCfg) 31 then max c.lov.env (if risesPast c then admittedMw c else 0) else capMw c)

/-- The admitted estimate x of R440: what the events of the interval draw, up to that limit, and always the static term (Table 11-7). Events past
the limit count in the intervals that follow (DESIGN CHOICE, log 115). -/
def drawnMw (c : Ctl) : Nat := max (staticMw c) (min (countedMw c) (limitMw c))

/-- The events that count in later intervals, in 0.01 pJ (log 115). -/
def laterTok (c : Ctl) : Nat := if countedMw c ≤ limitMw c then 0 else c.lov.tok - (drawnMw c - staticMw c) * 100000

/-- The floor f (R440, R445). -/
def floorMw (c : Ctl) (cap : Nat) : Nat :=
  if bit (reg c lovCfg) 28 then (match c.lov.plan with | some v => min (1000 * v) cap | none => 0) else 0

/-- Some group, or the device profile, is Lean (R440). -/
def anyLean (c : Ctl) : Bool := (List.range 5).any (fun i => decide (profileOf c i = 2))

/-- Scrub ballast is available only while a slice has a nonzero line in an ON bank (R442). -/
def scrubReady (s : State) : Bool :=
  s.store.tags.any (fun t => decide ((bankOf s.ctl (t.1 / 16384 / 48) (t.1 / 16384 % 48)).st = .on))

/-- Ballast for a gap: scrub first, then activations (R442, R443). -/
def ballastFor (c : Ctl) (scrub : Bool) (gap : Nat) : Nat × Nat :=
  if bit (reg c lovCfg) 31 && bit (reg c lovCfg) 30 then
    let a := if scrub then min gap (1000 * Config.scrubW) else 0
    (a, min (gap - a) (min (nOn c * 293 / 10) (1000 * (Config.ballastW c.part.tiers - Config.scrubW))))
  else (0, 0)

/-- The work presented by a source and not admitted. -/
def presented (d : Demand) (i : Nat) : Nat :=
  match i with
  | 0 => d.g0
  | 1 => d.g1
  | 2 => d.g2
  | 3 => d.g3
  | _ => d.dev

/-- Lines a microsecond of a data command at the head of a ready queue: 512 GB/s, or the rate of a HOT stack that it uses, of which the pace
advisory has told Lovage (R319, R321, R439, R447). -/
def headLines (c : Ctl) (ws : List Nat) : Nat :=
  let r := newRun ws 0 none none 0
  let pace (x : MAddr) : Nat :=
    match x.sa, saPortOf x.a with
    | true, .sp p => if c.lov.hot.contains p then max (tabGet 0 c.pin.rate p) 1 * bits (reg c thyCfg) 0 12 / 256 else 8000
    | _, _ => 8000
  min 8000 (min (pace r.src) (pace r.dstA))

/-- The energy of a line of a data command by Table 11-6: what it reads and writes, in the stack or link class where one of them is there, and
its fold and conversion work (R439, R541). -/
def headEnergy (c : Ctl) (ws : List Nat) : Nat :=
  let r := newRun ws 0 none none 0
  let t := tokenOf c
  if r.op = 6 ∨ r.op = 9 then 3 * t 1 + t 4
  else (if r.op = 10 ∨ r.srcSa = true ∨ r.dstSa = true then t 2 else if r.op = 2 then t 1 else 2 * t 1) + (if r.op = 7 ∨ r.op = 8 then t 5 else 0)

/-- The demand of the data commands at the heads of ready queues, in mW (R439). -/
def headsMw (c : Ctl) : Nat :=
  ((c.mov.q.filter (fun p => qReady c p.1 p.2)).map (fun p => let ws := p.2.fetched.getD []; headLines c ws * headEnergy c ws)).sum / 100000

/-- The demand of a source in the interval, admitted or not, and what it is still to be charged with, in mW (R439). -/
def demandOf (dm : Demand) (c : Ctl) (i : Nat) : Nat :=
  presented dm i + owedOf c i / 100000 + (if i = 4 then headsMw c else 0)

/-- Demand d of R440: every source's, and the static term; events that have still to count are part of it where no source owes them (log 115). -/
def demandMw (dm : Demand) (c : Ctl) : Nat :=
  staticMw c + ((List.range 5).map (demandOf dm c)).sum + (c.lov.tok - ((List.range 5).map (owedOf c)).sum) / 100000

/-- The limit on the total up to a row of Table 11-7; with en = 0 the cap alone. -/
def rowLimit (c : Ctl) (row a : Nat) : Nat :=
  let cap := capMw c
  if bit (reg c lovCfg) 31 = false ∨ row = 2 then cap else if row = 3 then min (1000 * bits (reg c lovCap) 16 10) cap else min a cap

/-- The sources of a row. -/
def rowSources (c : Ctl) (row : Nat) : List Nat := (List.range 5).filter (fun i => decide (rowOf c i = row))

/-- The budget of a row in mW once the rows before it have had theirs: they take no more than their demand (R439). -/
def rowBudget (dm : Demand) (c : Ctl) (a row : Nat) : Nat :=
  let need (r : Nat) : Nat := ((rowSources c r).map (demandOf dm c)).sum
  let took := ([2, 3].filter (fun r => decide (r < row))).foldl (fun m r => min (m + need r) (max m (rowLimit c r a))) (staticMw c)
  rowLimit c row a - took

/-- The shares of the next interval: within a row, in proportion to each source's demand in this one. A row without demand is not shared
(R439, log 107). -/
def sharesFor (dm : Demand) (c : Ctl) (a : Nat) : Tab Nat :=
  (List.range 5).foldl (fun t i =>
    let all := ((rowSources c (rowOf c i)).map (demandOf dm c)).sum
    if all = 0 then t else tabIns i (rowBudget dm c a (rowOf c i) * 100000 * demandOf dm c i / all) t) []

/-- What all traffic may reach before a source of each row is held (Table 11-7). -/
def roomsFor (c : Ctl) (a : Nat) : Tab Nat := (List.range 5).map (fun i => (i, (rowLimit c (rowOf c i) a - staticMw c) * 100000))

/-- The sources that Lovage has held in the interval (R439, R455): it has turned work of theirs away, work was presented with the budget
spent, or their group holds. -/
def heldNow (dm : Demand) (c : Ctl) : List Nat :=
  (List.range 5).filter (fun i => c.lov.short.contains i || (decide (0 < presented dm i) && lovFull c i 1)
    || (decide (i < 4) && (grpOf c i).active && lovHoldsGroup c i))

/-- Events of one interval, by weight. -/
def evW (src w qual : Nat) : Ev := ⟨src, w, qual, none, none, none⟩

/-- launch_check (R444): demand `d` has risen out of a quiet time past the threshold. -/
def launches (c : Ctl) (a d : Nat) : Bool :=
  bit (reg c lovCfg) 29 && launchOn c
    && decide (a + 1000 * bits (reg c lovLaunch) 0 8 < d ∧ bits (reg c lovQuiet) 0 10 ≤ c.lov.quiet)

/-- The ending interval closes (R440 from the admitted estimate on): rise, gap, shed, ballast, floor, launch; and what it publishes: the admitted
estimate with its ballast (R438, R442, R449, R455), no higher than the cap (R448). -/
def lovClose (scrub : Bool) (dm : Demand) (c : Ctl) : Ctl :=
  let l := c.lov
  let en := bit (reg c lovCfg) 31
  let x := drawnMw c
  let d := l.want
  let rose := en && decide (l.env < x)
  let shed := c.pin.shed || dipActive c
  let a1 := if l.env < x ∨ en = false ∨ shed = true then x else l.env
  let gap := a1 - x
  let (bs, ba) := ballastFor c scrub (min gap (capMw c - x))
  let missed := decide (bs + ba < gap)
  let a2 := if missed then x + bs + ba else a1
  let launch := launches c a2 d
  let held := heldNow dm c
  let est := x + bs + ba * 100000 / tokenOf c 7 * tokenOf c 7 / 100000
  let c1 := { c with lov := { l with
    env := a2
    quiet := if d ≤ a2 then l.quiet + 1 else 0
    wait := if launch then c.pin.devId * bits (reg c lovLaunch) 24 8 % max 1 (bits (reg c lovLaunch) 8 10) else l.wait
    tok := laterTok c
    scrub := bs
    act := ba
    est := est
    held := held
    waits := (List.range 5).foldl (fun t i => tabMod 0 i (fun n => if held.contains i ∧ tabGet 0 l.spent i = 0 then n + 1 else 0) t) l.waits
    paced := 0 } }
  let c2 := held.foldl (fun c i => emit ⟨0x89, 1, rowOf c i, none, none, if i < 4 then some i else none⟩ c) c1
  let c3 := emit (evW 0x8F (est / 1000) 0) (emit (evW 0x8A (bs / 1000) 0) (emit (evW 0x8A (ba / 1000) 1) c2))
  let c4 := if rose then emit (evW 0x8B 1 0) c3 else c3
  let c5 := if missed then emit (evW 0x8C 1 0) c4 else c4
  let c6 := if launch then emit (evW 0x8D 1 0) c5 else c5
  let c7 := if shed then emit (evW 0x8E 1 0) c6 else c6
  drive (.lovEst (est / 1000 % 1024)) c7

/-- The next interval opens, with demand `d` (R440 up to the admission of traffic): the envelope moves toward the target at the slopes, and
the budget is given out (R439). -/
def lovOpen (dm : Demand) (c : Ctl) : Ctl :=
  let l := c.lov
  let cfg := reg c lovCfg
  let cap := capMw c
  let d := demandMw dm c
  let t := max d (floorMw c cap)
  let up := if 0 < l.wait then 0 else 50 * bits cfg 0 7
  let a0 := min cap (max (l.env - 50 * bits cfg 16 7) (min (l.env + up) t))
  let a := if anyLean c then min a0 (1000 * bits (reg c lovCap) 16 10) else a0
  { c with lov := { l with
    env := a, wait := l.wait - 1, want := d, spent := [], extra := 0, short := [], carry := carriedOver c, share := sharesFor dm c a, room := roomsFor c a } }

/-- The interval of R440. -/
def lovageUpdate (scrub : Bool) (dm : Demand) (c : Ctl) : Ctl := lovOpen dm (lovClose scrub dm c)

/-- One microsecond of the real-time counter (R27, R430), counted while base logic has power (R506), and Lovage's interval while the device
runs. What Lovage held goes on where the new budget lets it. -/
def lovageInterval (scrub : Bool) (dm : Demand) (c : Ctl) : Ctl :=
  if c.dev.run = .island then c
  else
    let c1 := { c with rtc := (c.rtc + 1) % 2 ^ 48 }
    let c2 := if baseLogicOn c then emit (evW 0x0F 1 0) c1 else c1
    if c.dev.run = .running ∨ c.dev.run = .starting then pump (landPump (lovageUpdate scrub dm c2)) else c2

/-- A valid lov_plan value (R445): 0 removes the floor. -/
def lovPlan (v : Nat) (c : Ctl) : Ctl :=
  if bit (reg c lovCfg) 28 = true ∧ baseLogicOn c = true then
    { c with lov := { c.lov with plan := if v % 1024 = 0 then none else some (v % 1024) } }
  else c

/-- LOVAGE_INTERVAL (R440). -/
def execLovageInterval (d : Demand) (s : State) : Ans := nextCtl (lovageInterval (scrubReady s) d) s

/-- LOV_PLAN (R445). -/
def execLovPlan (v : Nat) (s : State) : Ans := nextCtl (lovPlan v) s

/-- A level of lov_shed (R446, R453): at 1 the scrubber returns to its period rate and activations stop, while Lovage has power (R430). -/
def lovShed (level : Bool) (c : Ctl) : Ctl :=
  let c1 := { c with pin := { c.pin with shed := level } }
  if level && baseLogicOn c then { c1 with lov := { c1.lov with scrub := 0, act := 0 } } else c1

def execLovShed (level : Bool) (s : State) : Ans := nextCtl (lovShed level) s

end Sys2Proof.Machine
end

