-- ==== Sys2Proof/Machine/Recovery.lean ====
section
/-! DEFINITION. Reset domains, fences and drains, device resets, the crash record, fatal conditions and the abort flood
(R456..R459, R467..R478). -/

namespace Sys2Proof.Machine

/-- Word at offset `o` of block `i` in the crash record: as MP reads it without side effects, with the header in BRL's copy (R475). -/
def crashWord (c : Ctl) (hdr : List Byte) (i o : Nat) : List Byte :=
  if i = 0 ∧ 0x8000 ≤ o ∧ o < 0x8040 then (hdr.drop (o - 0x8000)).take 4 else leBytes 4 (regWord c (rg i o)).toNat

/-- The 64-byte header (R475). -/
def crashHeader (c : Ctl) (reason : Nat) : List Byte :=
  [0x42, 0x52, 0x4C, 0x43] ++ leBytes 2 1 ++ leBytes 1 reason ++ leBytes 1 (bits (reg c prtFatal) 0 3) ++ leBytes 6 c.rtc
    ++ leBytes 2 c.part.compat ++ List.replicate 48 0

/-- The lines of the crash record: the copies of the sixteen blocks (R475). -/
def crashLines (c : Ctl) (reason : Nat) : List (Nat × Line × Nat) :=
  let hdr := crashHeader c reason
  (List.range 16).flatMap (fun i =>
    byteLines (taCrash + 0x10000 * i) ((List.range 16384).flatMap (fun k => crashWord c hdr i (4 * k))))

/-- Write the crash record of this moment, and the Sorrel dump beside it (R475): each line at once, or as soon as its bank, its bundle and a
copy let it be written. -/
def crashRecord (reason : Nat) (s : State) : State :=
  ownPut (crashLines s.ctl reason ++ byteLines taDump (dumpBytes s.ctl reason)) s

/-- on_abort of R477. -/
def onAbort (org hops : Nat) (link : Option Nat) (c : Ctl) : Ctl :=
  if c.dev.seen.contains org then c
  else
    let c1 := if c.dev.seen.length < 16 then { c with dev := { c.dev with seen := c.dev.seen ++ [org] } } else c
    let c2 := if bit (reg c1 brlAbortSt) 31 then c1
      else setReg brlAbortSt (BitVec.ofNat 32 (2 ^ 31 + (if link.isNone then 2 ^ 30 else 0) + (hops % 16) <<< 16 + org % 65536)) c1
    let c3 := raiseInt 1 c2
    let c4 := ((c3.lnd.win.filter (fun p => p.2.isOpen)).map Prod.fst).foldl (fun c w => closeWin w c) c3
    let c5 := (((List.range 256).map (winBound c4)).filter (fun b => decide (b < 832))).foldl (fun c b =>
      if c.srl.dead then c else barFreeze b .brk none c) c4
    if hops = 0 then c5
    else ((List.range 12).filter (fun l => linkOn c5 l && decide (link ≠ some l))).foldl (fun c l =>
      drive (.abortOut l org (hops - 1)) (emit (evQ 0x9D 0) c)) c5

/-- An abort starts at this device (R477). -/
def abortHere (c : Ctl) : Ctl := onAbort c.pin.devId (bits (reg c brlCfg) 16 4) none (emit (evQ 0x9B 0) c)

/-- What a fence does to one accepted request (R468): reads and complete writes go on without an answer, a write that lacks beats is
refused. -/
def fenceReq (r : Req) : Req :=
  if r.verdict = .fenced then r
  else if r.onRs then { r with discard := true }
  else if r.dataBeats ≤ r.beatsIn then { r with discard := true }
  else { r with verdict := .fenced, discard := true, wdata := [], range := .none }

/-- Fence the ports that `f` selects. -/
def fencePorts (f : Port → Bool) (c : Ctl) : Ctl :=
  { c with port := { c.port with reqs := c.port.reqs.map (fun r => if f r.port then fenceReq r else r) } }

/-- The fence of zone `z` (R199, R468, R473). A kernel end that has not been recorded is recorded no more, and keeps back what its core issued
after it (R189). -/
def fenceZone (z : Nat) (c : Ctl) : Ctl :=
  let c1 := flushWhere z 6 (fun _ => true) (fencePorts (fun p => decide (portCore p = some z)) c)
  let c2 := (List.range 32).foldl (fun c _ => grantRange z c) c1
  { setChv z { chvOf c2 z with dbs := [], invQ := [], invOut := [] } c2 with
    out := { c2.out with rstReq := insertNew z c2.out.rstReq } }

/-- The destination lines of a running data command that have not been issued: beats' lines of a SEND, and the lines that the list of a ROUTE or
a COMBINE names. -/
def Run.unissued (c : Ctl) (r : Run) : Nat :=
  if r.op = 10 then r.total c - 2 * r.beats else (if r.op = 5 ∨ r.op = 6 then r.planned else r.total c) - r.sent

/-- A running data command's lines that are not issued after the fence count as FENCED (R469); those of a command that a teardown has stopped do
not. -/
def fenceRun (c : Ctl) (r : Run) : Run := if r.mover.isNone || r.stop then r else { r with bad := satAdd 32 r.bad (r.unissued c) }

/-- The fence of the movers (R469). -/
def fenceMovers (c : Ctl) : Ctl :=
  (List.range 72).foldl (fun c q => stopQueue q (modRun q (fenceRun c) c)) c

/-- The fence of the landing unit (R470). -/
def fenceLanding (c : Ctl) : Ctl := (List.range 256).foldl (fun c w => closeWin w c) c

def setDom (d : Nat) (v : Dom) (c : Ctl) : Ctl := { c with dev := { c.dev with dom := tabPut Dom.released d v c.dev.dom } }

/-- A released domain is fenced (R467..R470). -/
def startFence (d : Nat) (c : Ctl) : Ctl :=
  if domReleased c d then
    setDom d (.fenced c.rtc) (if d < 16 then fenceZone d c else if d = 16 then fenceMovers c else if d = 17 then fenceLanding c else c)
  else c

/-- Every domain is fenced, and HP with them (R472, R476). -/
def fenceAll (c : Ctl) : Ctl := (List.range 20).foldl (fun c d => startFence d c) (fencePorts (fun p => decide (p = .hp)) c)

/-- What a reset leaves of zone `z` (Table 12-7, R214, R351). -/
def resetZone (z : Nat) (c : Ctl) : Ctl :=
  let mine (p : Port) : Bool := decide (portCore p = some z)
  let c1 := setChv z Chv.rest (setReg (chvKend z) 0 (setReg (chvInv z) 0 c))
  let ids := (List.range 5).map (fun k => 5 * z + k)
  let c2 := { c1 with
    port := { c1.port with
      reqs := c1.port.reqs.filter (fun r => !mine r.port)
      credit := c1.port.credit.filter (fun p => !ids.contains p.1) }
    grp := c1.grp.map (fun p => (p.1, { p.2 with horizon := p.2.horizon.filter (fun h => !ids.contains h.1) })) }
  sorrelZoneReset z c2

/-- What a reset leaves of the movers: every MOV register at its reset value (Table 12-7). The credits of links and stacks, what has been
issued to a stack of late and the levels of its pins are not theirs. -/
def resetMovers (c : Ctl) : Ctl :=
  let c1 := resetRegs (rg 8 0) (rg 9 0) (fun _ => false) c
  { c1 with mov := { c1.mov with q := [], rr := 0, sa := [], wd := [], td := none, sqIdle := [], sqNow := [] } }

/-- What a reset leaves of the landing unit: windows CLOSED, other LND registers at their reset values (Table 12-7); the lines that their
slices have answered are counted (R336), and what waits at the links goes on waiting (R470). -/
def resetLanding (c : Ctl) : Ctl :=
  let c0 := c.lnd.land.foldl (fun c x => match x.out with
    | none => c
    | some st => emit (evQ (if st = .ok then 0x48 else 0x4C) x.win) c) c
  let c1 := resetRegs (rg 9 0) (rg 10 0) (fun _ => false) c0
  { c1 with lnd := { c1.lnd with
      land := []
      win := (c1.lnd.win.map (fun p => (p.1, { Win.rest with gen := p.2.gen }))).filter (fun p => decide (p.2 ≠ Win.rest)) } }

/-- The reset of domain `d` (Table 12-7). -/
def resetDomain (d : Nat) (c : Ctl) : Ctl :=
  if d < 16 then resetZone d c
  else if d = 16 then resetMovers c
  else if d = 17 then resetLanding c
  else if d = 18 then sorrelReset c
  else freeLocks (fun o => decide (o = 0x12)) { c with prt := { c.prt with acien := none, region := none } }

/-- Writes held for domain `d` apply as it is released (R128). -/
def applyHeld (d : Nat) (c : Ctl) : Ctl :=
  let mine (w : Agent × Nat × Word) : Bool := decide (regDomain w.2.1 = some d)
  (c.dev.heldWrites.filter mine).foldl (fun c w => unitWrite w.1 w.2.1 w.2.2 c)
    { c with dev := { c.dev with heldWrites := c.dev.heldWrites.filter (fun w => !mine w) } }

/-- Domain `d` is held in reset (R467). -/
def holdOn (c : Ctl) (d : Nat) : Bool := bit (reg c brlRstHold) d || (decide (d < 16) && c.pin.zrst.contains d)

/-- Domain resets happen: the image has been applied and the device is not asleep. -/
def domainsLive (c : Ctl) : Bool := decide (c.dev.run = .running ∨ c.dev.run = .starting)

/-- A domain in reset is released when nothing holds it (R467, R473): for a zone, c_rst_req falls, and its c_rst_ack must have. -/
def tryRelease (d : Nat) (c : Ctl) : Ctl :=
  if domainsLive c && domInReset c d && !holdOn c d && !devFenced c && !(decide (d < 16) && isolated c d) then
    let c1 := if d < 16 then { c with out := { c.out with rstReq := c.out.rstReq.filter (fun z => decide (z ≠ d)) } } else c
    if d < 16 ∧ c.pin.rstAck.contains d = true then c1
    else
      let c2 := setDom d .released c1
      let c3 := applyHeld d (if d < 16 then reseedPort d c2 else if d = 16 then followHot (reseedQueues c2) else c2)
      pump (if d = 18 then (List.range 16).foldl (fun c z => sorrelDrain 16 z c) c3 else c3)
  else c

/-- A drained domain enters reset (R471). -/
def enterReset (d : Nat) (c : Ctl) : Ctl :=
  tryRelease d (emit (evQ 0x98 d) (raiseInt 3 (raiseBit brlRstLat d (resetDomain d (setDom d .inReset c)))))

/-- Fences start and domains are released as the holds stand (R467). -/
def holdEffect (ds : List Nat) (c : Ctl) : Ctl :=
  if domainsLive c then ds.foldl (fun c d => if holdOn c d then startFence d c else tryRelease d c) c else c

/-- A write to BRL_RST_HOLD (R467). -/
def holdRegWrite (v : Word) (c : Ctl) : Ctl := pump (holdEffect (List.range 20) (writeStored brlRstHold v c))

/-- A change of c_zrst of core `z` (R467). -/
def zrstLevel (z : Nat) (level : Bool) (c : Ctl) : Ctl :=
  if z < 16 then
    pump (holdEffect [z] { c with pin := { c.pin with
      zrst := if level then insertNew z c.pin.zrst else c.pin.zrst.filter (fun x => decide (x ≠ z)) } })
  else c

/-- The effect of a hold source. -/
def holdChange (h : HoldSrc) (level : Bool) (c : Ctl) : Ctl :=
  match h with
  | .reg a v => hubCtl a brlRstHold v (holdRegWrite v) c
  | .zrst z => zrstLevel z level c

/-- Registers that a device reset keeps (R404, R412, R450, R481). -/
def keptReg (o : Nat) : Bool :=
  decide (o ∈ [prtFatal, pwrAlarmLo, pwrAlarmHi, pwrRtcHi, pwrSupSt, pwrVret, pwrSt, brlRstCause, brlAbortSt])
    || (List.range 16).any (fun z => decide (o = migSt z))

/-- The lanes that a device reset keeps: failures, not a retrain under way (Table 12-9). -/
def keptLanes (t : Tab Lane) : Tab Lane :=
  (t.map (fun p => (p.1, { Lane.rest with failed := p.2.failed, spares := p.2.spares, degraded := p.2.degraded }))).filter
    (fun p => decide (p.2 ≠ Lane.rest))

/-- Lane states with the lanes of the fuses `t` failed (R396, R532). -/
def fuseLanes (t : Tab (List FuseEntry)) (ls : Tab Lane) : Tab Lane :=
  t.foldl (fun a p => p.2.foldl (fun (a : Tab Lane) e => match e with
    | .lane tier lane => tabMod Lane.rest (3 * p.1 + tier) (Lane.fail lane) a
    | _ => a) a) ls

/-- Fuse repairs apply as Brural is powered (R411, R459, R531, R532). -/
def applyFuses (c : Ctl) : Ctl :=
  { c with
    fuse := { c.fuse with applied := c.fuse.repairs }
    prt := { c.prt with lane := fuseLanes c.fuse.repairs c.prt.lane } }

/-- SLEEP, or the exit from it: base logic and tiers have no power yet. -/
def slept (c : Ctl) : Bool := decide (c.dev.run = .asleep ∨ c.dev.run = .waking)

/-- Some bank is LOST (R424). -/
def anyLost (c : Ctl) : Bool := c.pwr.bank.any (fun p => p.2.lost)

/-- Base logic and tiers are without a supply after a device reset, and wait for both rails (R430, R456, R459). -/
def unpowered (c : Ctl) : Bool := c.dev.needPower || (slept c && decide (c.pin.mvA < Config.warnA ∨ c.pin.mvB < Config.warnB))

/-- What the load after a device reset follows: a LOST bank that has come back is to be reported (R424). -/
def lostLoad (c : Ctl) : LoadAfter := if c.dev.load = .lostKeep ∨ anyLost c = true then .lostKeep else .other

/-- The control state after a device reset (R450, R456, R474, Table 12-9), in phase `ph`. A reset out of SLEEP runs the power-up order, which
applies fuse repairs, and keeps a keep-set that is not LOST (R424, R431, R459); until both rails are up the banks stay as they are. -/
def resetCtl (ph : Phase) (c : Ctl) : Ctl :=
  let low := unpowered c
  let c0 : Ctl := { Ctl.reset with
    part := c.part
    fuse := c.fuse
    pin := c.pin
    edge := c.edge
    pc := c.pc
    rtc := c.rtc
    regs := c.regs.filter (fun p => keptReg p.1)
    prt := { Ctl.reset.prt with
      lane := keptLanes c.prt.lane, mig := c.prt.mig.map (fun p => (p.1, { p.2 with asked := none, got := none, put := none })), moved := c.prt.moved
      retired := c.prt.retired, retLog := c.prt.retLog, badCommitted := c.prt.badCommitted, badMig := c.prt.badMig
      pendingBad := c.prt.pendingBad, passStart := c.rtc, hourStart := c.rtc }
    pwr := { Ctl.reset.pwr with
      bank := if low then c.pwr.bank else []
      vretLp := low && c.pwr.vretLp
      freeze := c.pwr.freeze, okSinceA := c.pwr.okSinceA, okSinceB := c.pwr.okSinceB, warnDue := c.pwr.warnDue
      keepSplit := c.pwr.keepSplit, keepKept := (slept c || c.pwr.keepKept) && (low || !anyLost c) }
    dev := { Ctl.reset.dev with run := if low then .reset else ph, needPower := low, load := if low then c.dev.load else lostLoad c }
    tapIr := c.tapIr
    tap := c.tap
    report := c.report
    free := c.free }
  let c1 := modReg pwrSt (fun v => setBits (setBit v 31 false) 16 14 0) (if slept c && !low then applyFuses c0 else c0)
  if baseLogicOn c1 then followHot c1 else c1

/-- LOST banks come back with every zero bit set (R424). -/
def wipeLost (s : State) : State :=
  (s.ctl.pwr.bank.filter (fun p => p.2.lost)).foldl (fun s p => s.onStore (Store.wipeBank (p.1 / 48) (p.1 % 48))) s

/-- A device reset takes effect. -/
def deviceReset (ph : Phase) (s : State) : State := (if unpowered s.ctl then s else wipeLost s).onCtl (resetCtl ph)

/-- BRL_RST_CAUSE.cause (Table 12-13). -/
def setCause (n : Nat) (c : Ctl) : Ctl := modReg brlRstCause (fun v => setBits v 0 3 n) c

/-- A requested device reset has taken effect (R472, R481): its cause, and the acknowledge. -/
def requestedEnd (forced : Bool) (c : Ctl) : Ctl :=
  let c1 := setCause 1 (modReg brlRstCause (fun v => setBit v 31 forced) { c with dev := { c.dev with resetReq := none } })
  if c1.pin.rstReq then { c1 with out := { c1.out with rstAck := true } } else drive .rstAckPulse c1

/-- A requested device reset takes effect (R472, R475), with its crash record unless it comes from the fatal state. Out of SLEEP the power-up
order comes first, which may wait for the rails (R431, R456). -/
def requestedEffect (forced : Bool) (s : State) : State :=
  if slept s.ctl then
    let s1 := deviceReset .loading s
    if s1.ctl.dev.needPower then s1.onCtl (fun c => { c with dev := { c.dev with resetReq := some c.rtc } })
    else (crashRecord 3 s1).onCtl (requestedEnd forced)
  else (deviceReset .loading (if s.ctl.out.fatal then ownPump s else crashRecord 3 s)).onCtl (requestedEnd forced)

/-- A requested device reset can take effect (R472, R475): the device is drained and its crash record can be written; from the fatal state, the
record of the fatal condition is written. -/
def resetReady (s : State) : Bool :=
  if s.ctl.out.fatal then s.ctl.dev.own.isEmpty
  else allDrained s.ctl && (match ownAvail s recordTas with | .wait _ => false | _ => true)

/-- A requested device reset does not take effect at once: from the fatal state it waits for the crash record, else for the drain (R472, R475,
R476). -/
def resetWaits (c : Ctl) : Bool := if c.out.fatal then baseLogicOn c && !c.dev.own.isEmpty else domainsLive c

/-- A requested device reset starts (R472, R476), with c_rst_req to every core. Where base logic does not run, or from the fatal state once its
record is written, it takes effect at once; while the device is already held in reset it changes nothing. -/
def requestReset (s : State) : State :=
  let c := s.ctl
  if c.dev.run = .island ∨ c.dev.run = .reset ∨ c.dev.resetReq.isSome = true then s
  else if resetWaits c then
    s.onCtl (fun c => pump (dropEntry (fenceAll { c with
      out := { c.out with rstReq := (List.range 16).foldl (fun t z => insertNew z t) c.out.rstReq }
      dev := { c.dev with resetReq := some c.rtc } })))
  else requestedEffect false s

/-- REQUESTED_DEVICE_RESET: a rise of brl_rst_req, or a write of BRL_RST_DEV.go (R456). -/
def requestFrom (byPin : Bool) (s : State) : State :=
  if byPin then
    if s.ctl.pin.rstReq then s
    else requestReset (s.onCtl (fun c => { c with pin := { c.pin with rstReq := true } }))
  else hubWrite .mp (rg 0 0x40) 1 requestReset s

/-- DOMAIN_DRAINED (R471, R472): domain `d`, or with d = 20 the whole device, whose crash record waits for the banks that it needs (R475). -/
def domainDrained (d : Nat) (s : State) : State :=
  let c := s.ctl
  if d = 20 then
    (if c.dev.resetReq.isSome && baseLogicOn c then
      (if resetReady s then requestedEffect false s else if allDrained c && !c.out.fatal then s.onCtl (ownWakes recordTas) else s)
    else s)
  else if d < 20 ∧ domainsLive c = true ∧ domFenced c d = true ∧ devFenced c = false ∧ drained c d = true then s.onCtl (fun c => pump (enterReset d c))
  else s

/-- REQUESTED_RESET_FORCED (R472): 1 ms after the request, where the drain or the record has not come to its end. -/
def resetForced (s : State) : State :=
  match s.ctl.dev.resetReq with
  | some since =>
    if since + 1000 ≤ s.ctl.rtc ∧ baseLogicOn s.ctl = true ∧ resetReady s = false then requestedEffect true (s.onCtl (emit (evQ 0x9A 0))) else s
  | none => s

/-- brl_rst_n falls (R456, R458). -/
def immediateReset (s : State) : State :=
  let s1 := s.onCtl (fun c => { c with pin := { c.pin with rstN := false } })
  if s.ctl.dev.run = .island then s1
  else if s.ctl.pin.rstN then (deviceReset .reset s1).onCtl (setCause 2)
  else s

/-- The line at key `k` belongs to boot memory, or to the post-mortem region (Table 2-2). -/
def isBootKey (k : Nat) : Bool := decide (k / 16384 / 48 < 9 ∧ (k / 16384 % 48 = 13 ∨ k / 16384 % 48 = 14))
def isPmKey (k : Nat) : Bool := decide (k / 16384 / 48 < 72 ∧ k / 16384 % 48 = 15)

/-- The preserved banks (R55): physical slice and bank, by the slices that hold them now. -/
def preservedBanks (c : Ctl) : List (Nat × Nat) :=
  ((List.range 8).flatMap (fun l => (slicesOf c l).flatMap (fun p => [(p, 13), (p, 14)])))
    ++ ((List.range 64).flatMap (fun l => (slicesOf c l).map (fun p => (p, 15))))

/-- The preserved banks go onto VRET in low-power mode (R457). -/
def preserve (c : Ctl) : Ctl :=
  let c1 := { c with pwr := { c.pwr with bank := [], vretLp := true, keepKept := false }, dev := { c.dev with needPower := true } }
  (preservedBanks c).foldl (fun c k => setBank k.1 k.2 { Bank.rest with st := .ret, last := c.rtc } c) c1

/-- A rail falls below its brown-out level (R437, R456, R457); the VDD monitors take no action in SLEEP (R430), and a device that has no
supply has none to lose. Banks that are not preserved lose their contents. -/
def brownOut (r : Rail) (mv : Nat) (s : State) : State :=
  if railBor r ≤ mv then s
  else
    let s1 := s.onCtl (railLevel r mv)
    if s.ctl.dev.run = .asleep ∨ s.ctl.dev.run = .island ∨ s.ctl.dev.needPower = true then s1
    else
      ((deviceReset .reset ((wipeLost s1).onCtl (fun c => modReg pwrSupSt (fun v => setBit v 31 true) c))).onStore
        (Store.clearWhere (fun k => !isPmKey k && !isBootKey k))).onCtl (fun c =>
          setCause 3 (preserve { c with dev := { c.dev with run := .reset, load := lostLoad s1.ctl } }))

/-- The always-on island is reset: VAO is gone, or aon_por_n is low (R27, R437). What survives is fuses, pins, and Acien's record of
retirements (R408). -/
def islandReset (s : State) : State :=
  { s with
    store := Store.empty
    ctl := { Ctl.reset with
      part := s.ctl.part
      fuse := s.ctl.fuse
      pin := { s.ctl.pin with aonPorN := false }
      edge := s.ctl.edge
      prt := { Ctl.reset.prt with retLog := s.ctl.prt.retLog }
      dev := { Ctl.reset.dev with run := .island }
      tapIr := s.ctl.tapIr
      tap := s.ctl.tap
      report := s.ctl.report
      free := s.ctl.free } }

/-- The loader starts, and with the base logic's power the mover complex follows the stacks' HOT levels (R333, R456). -/
def startLoading (c : Ctl) : Ctl := followHot { c with dev := { c.dev with run := .loading } }

/-- Both rails stand at or above their warning levels. -/
def railsUp (c : Ctl) : Bool := decide (Config.warnA ≤ c.pin.mvA ∧ Config.warnB ≤ c.pin.mvB)

/-- A device without power can be powered (R459): both rails are up and, after a power-on, brl_rst_n is high. -/
def mayPower (c : Ctl) : Bool := railsUp c && (decide (c.dev.load ≠ .powerOn) || c.pin.rstN)

/-- The power-up order of a device that waited for its rails (R424, R457, R459): fuse repairs apply, and every bank comes up, a LOST one with
every zero bit set. -/
def poweredCtl (c : Ctl) : Ctl :=
  let c1 := applyFuses { c with
    pwr := { c.pwr with bank := [], vretLp := false, keepKept := c.pwr.keepKept && !anyLost c }
    dev := { c.dev with needPower := false, load := if c.dev.load = .powerOn then .powerOn else lostLoad c, run := .reset } }
  if c.pin.rstN && !c.pin.devHold then startLoading c1 else c1

/-- POWER_ON (R27, R456, R459, R518): aon_por_n has risen, and brl_rst_n too where `rstN` says so; otherwise it rises with the load. Base logic
and tiers get their power only with brl_rst_n high and both rails up; fuse repairs apply then, and the loader starts. -/
def powerOn (devId : Nat) (rstN : Bool) (c : Ctl) : Ctl :=
  if c.dev.run = .island then
    let c1 := { c with
      pin := { c.pin with aonPorN := true, rstN := rstN, devId := devId % 65536 }
      dev := { c.dev with run := .reset, needPower := true } }
    if mayPower c1 then poweredCtl c1 else c1
  else c

/-- RAILS_RESTORED (R430, R431, R456, R459): both rails are above their warning levels. A requested reset that waited for them writes its record
and is acknowledged. An exit from SLEEP that waited for them begins once they have stood for 10 µs (R520). -/
def railsBack (mvA mvB : Nat) (s : State) : State :=
  if Config.warnA ≤ mvA ∧ Config.warnB ≤ mvB then
    let s1 := s.onCtl (supplyLevels mvA mvB)
    if s1.ctl.dev.run = .reset ∧ s1.ctl.dev.needPower = true ∧ mayPower s1.ctl = true then
      let s2 := (wipeLost s1).onCtl poweredCtl
      if s2.ctl.dev.resetReq.isSome then (crashRecord 3 s2).onCtl (requestedEnd false) else s2
    else if s1.ctl.dev.run = .waking ∧ railsSteady s1.ctl = true then s1.onCtl (fun c => { c with pwr := { c.pwr with vretLp := false } })
    else s1
  else s

/-- The event of a fatal condition that concerns `zone`: bit `b` of PRT_FATAL, BRL_FATAL, the captured event and brl_fatal (R386, R476). -/
def fatalNote (b : Nat) (zone : Option Nat) (c : Ctl) : Ctl :=
  let c1 := captureIn zone (capOf c 0x0F 0 0 0 0 0 0 0) (raiseInt 0 (raiseBit prtFatal b c))
  { c1 with out := { c1.out with fatal := true } }

/-- What a fatal condition does before its crash record (R476): its event and the fence of every domain; a SLEEP entry ends. -/
def fatalFront (b : Nat) (zone : Option Nat) (c : Ctl) : Ctl := dropEntry (fenceAll (fatalNote b zone c))

/-- A fatal condition (R476): its event, the fence of every domain, the crash record (R475), and an abort from this device. A further one does
the same: what is fenced stays so, and the record is written anew (log 44). -/
def fatalNow (b : Nat) (zone : Option Nat) (s : State) : State :=
  (crashRecord 2 (s.onCtl (fatalFront b zone))).onCtl (fun c => pump (abortHere c))

/-- What the check of kind `k` finds to be broken (R356, R386, R387); which bits of Sorrel's state have flipped is a free value (log 157). -/
def fatalMark (k : FatalKind) (c : Ctl) : Ctl :=
  match k with
  | .sorrel =>
    let (n, c1) := freshFree c
    { c1 with srl := { c1.srl with dead := true, upset := n } }
  | .committed n => { c with prt := { c.prt with badCommitted := insertNew n c.prt.badCommitted } }
  | .migration z => { c with prt := { c.prt with badMig := insertNew z c.prt.badMig } }
  | .pending z => { c with prt := { c.prt with pendingBad := insertNew z c.prt.pendingBad } }
  | .image => c
  | .redirectCe _ => c
  | .sorrelCe => c

/-- FATAL_CONDITION (R356, R386, R387, R476), whenever base logic runs, and what the checks of the same state find that is not fatal (log 94). -/
def fatalCondition (k : FatalKind) (s : State) : State :=
  let live := baseLogicOn s.ctl
  match k with
  | .sorrel => if live && !s.ctl.srl.dead then fatalNow 0 none (s.onCtl (fatalMark k)) else s
  | .committed n => if live && decide (n < 128) then fatalNow 1 (some (n / 8)) (s.onCtl (fatalMark k)) else s
  | .migration z => if live && decide (z < 16) then fatalNow 1 (some z) (s.onCtl (fatalMark k)) else s
  | .image => if s.ctl.dev.run = .noImage ∧ s.ctl.out.fatal = false then fatalNow 2 none s else s
  | .pending z => if live && decide (z < 16) then s.onCtl (fatalMark k) else s
  | .redirectCe z =>
    if live && decide (z < 16) then
      s.onCtl (fun c => emit (evZ 0x68 z) (modReg prtCe (fun v => setBits v 0 32 (satAdd 32 v.toNat 1)) c))
    else s
  | .sorrelCe => if live && !s.ctl.srl.dead && !domInReset s.ctl 18 then s.onCtl (emit (evW 0x57 1 0)) else s

/-- C_RST_ACK (R471, R473). -/
def rstAckLevel (z : Nat) (level : Bool) (c : Ctl) : Ctl :=
  if z < 16 then
    let c1 := { c with pin := { c.pin with
      rstAck := if level then insertNew z c.pin.rstAck else c.pin.rstAck.filter (fun x => decide (x ≠ z)) } }
    if level then c1 else pump (tryRelease z c1)
  else c

/-- FENCE_TIMEOUT (R473): the zone is clamped, recorded and escalated. -/
def fenceTimeout (z : Nat) (c : Ctl) : Ctl :=
  match domOf c z with
  | .fenced since =>
    if z < 16 ∧ domainsLive c = true ∧ c.pin.rstAck.contains z = false ∧ isolated c z = false ∧ since + bits (reg c brlCfg) 0 16 ≤ c.rtc then
      let c1 := drive (.esc z) (emit (evQ 0x99 z) (raiseInt 2 (raiseBit brlIsol z c)))
      { c1 with port := { c1.port with reqs := c1.port.reqs.map (fun r => if portCore r.port = some z then { r with discard := true } else r) } }
    else c
  | _ => c

/-- A write to BRL_ISOL (R473): a bit clears only after c_rst_ack has risen; the zone's ports open with no response credit (R106). -/
def isolWrite (v : Word) (c : Ctl) : Ctl :=
  let zs := (List.range 16).filter (fun z => bit v z && isolated c z && c.pin.rstAck.contains z)
  let c0 := zs.foldl (fun c z => modReg brlIsol (fun w => setBit w z false) c) c
  let c1 := { c0 with port := { c0.port with credit := c0.port.credit.filter (fun p => !zs.contains (p.1 / 5)) } }
  zs.foldl (fun c z => tryRelease z c) c1

/-- A write to the BRL register at block offset `o` (R481, R499). -/
def brlWrite (o : Nat) (v : Word) (s : State) : State :=
  if o = 0x00 then s.onCtl (ctrlWrite v)
  else if o = 0x30 then s.onCtl (holdRegWrite v)
  else if o = 0x40 then (if bit v 0 then requestReset s else s)
  else if o = 0x44 then s.onCtl (isolWrite v)
  else if o = 0x50 then (if bit v 0 then s.onCtl abortHere else s)
  else s.onCtl (writeStored (rg 0 o) v)

def execBrownOutReset (r : Rail) (mv : Nat) (s : State) : Ans := .next (brownOut r mv s)

/-- VAO_LOSS (R437). -/
def execVaoLoss (s : State) : Ans := .next (islandReset s)

def execPowerOn (p : PowerUp) (s : State) : Ans := nextCtl (powerOn p.devId p.rstN) s
def execImmediateDeviceReset (s : State) : Ans := .next (immediateReset s)
def execRequestedDeviceReset (byPin : Bool) (s : State) : Ans := .next (requestFrom byPin s)
def execRequestedResetForced (s : State) : Ans := .next (resetForced s)

/-- DOMAIN_FENCE (R467..R470). -/
def execDomainFence (h : HoldSrc) (s : State) : Ans := nextCtl (holdChange h true) s

def execDomainDrained (d : Nat) (s : State) : Ans := .next (domainDrained d s)

/-- DOMAIN_RELEASE (R128, R467, R473). -/
def execDomainRelease (h : HoldSrc) (s : State) : Ans := nextCtl (holdChange h false) s

def execCRstAck (z : Nat) (level : Bool) (s : State) : Ans := nextCtl (rstAckLevel z level) s
def execFenceTimeout (z : Nat) (s : State) : Ans := nextCtl (fenceTimeout z) s
def execBrlIsolClear (a : Agent) (v : Word) (s : State) : Ans := nextCtl (hubCtl a brlIsol v (isolWrite v)) s
def execFatalCondition (k : FatalKind) (s : State) : Ans := .next (fatalCondition k s)

/-- SRL_STATE_UE (R356): the fatal condition of the Sorrel state. -/
def execSrlStateUe (s : State) : Ans := .next (fatalCondition .sorrel s)

/-- BRL_ABORT (R477): a write of BRL_ABORT with go = 1. -/
def execBrlAbort (a : Agent) (v : Word) (s : State) : Ans := nextCtl (hubCtl a (rg 0 0x50) v abortHere) s

/-- ABORT_MARKER (R477): a marker on a link that is absent is ignored. -/
def execAbortMarker (l org hop : Nat) (s : State) : Ans :=
  nextCtl (fun c =>
    if baseLogicOn c && decide (l < 12) && linkOn c l then
      onAbort (org % 65536) (hop % 16) (some l) (emit (evQ 0x9C l) c)
    else c) s

def execRailsRestored (mvA mvB : Nat) (s : State) : Ans := .next (railsBack mvA mvB s)

/-- AON_POR_N_LOW (R27). -/
def execAonPorNLow (s : State) : Ans := .next (islandReset s)

/-- BRL_RST_REQ_FALL (R472). -/
def execBrlRstReqFall (s : State) : Ans :=
  nextCtl (fun c => { c with pin := { c.pin with rstReq := false }, out := { c.out with rstAck := false } }) s

end Sys2Proof.Machine
end

