-- ==== Sys2Proof/Machine/Sleep.lean ====
section
/-! DEFINITION. The way out of SLEEP: the restore, or the full load in its place, and the release of isolation (R424, R430..R433, R436). -/

namespace Sys2Proof.Machine

/-- The registers after the restore: the saved ones, but for those that the always-on island holds (R404, R450). -/
def restoredRegs (saved now : Tab Word) : Tab Word :=
  (now.filter (fun p => keptReg p.1)).foldr (fun p t => tabIns p.1 p.2 t) (saved.filter (fun p => !keptReg p.1))

/-- What was saved in step 3 comes back (R432, Table 11-4). -/
def restore (v : Saved) (c : Ctl) : Ctl :=
  { c with
    regs := restoredRegs v.regs c.regs
    int := { v.int with raised := c.int.raised }, evc := v.evc, grp := v.grp, chv := v.chv, srl := v.srl
    lfsrPort := v.lfsrPort, lfsrQ := v.lfsrQ, lfsrHp := v.lfsrHp, mov := v.mov, lnd := v.lnd, lov := v.lov
    prt := { c.prt with cap := v.cap, logLast := v.logLast, lane := v.lane }
    pwr := { c.pwr with saved := none, saveCrc := none, vretLp := false } }

/-- One more SLEEP is complete (Table 11-11). -/
def sleepDone (c : Ctl) : Ctl := modReg pwrSt (fun v => setBits v 0 16 (bits v 0 16 + 1)) c

/-- The device runs again, isolated: aon_wake rises and MP opens; the inputs count once more (R430, R432, R436). -/
def awake (c : Ctl) : Ctl :=
  let c1 := sleepDone { c with out := { c.out with aonWake := true }, dev := { c.dev with run := .running } }
  pump (holdEffect (List.range 20) (warnDueNow (fullRateLevels c1.pin.mvA c1.pin.mvB (followHot c1))))

/-- The load that takes the place of the restore (R424, R432): isolation and the latched outputs end with it, and aon_wake does not rise (DESIGN
CHOICE, log 156). -/
def sleepLoad (s : State) : State :=
  let lost := anyLost s.ctl
  (deviceReset .loading (s.onCtl sleepDone)).onCtl (fun c =>
    let c1 := { c with pwr := { c.pwr with keepKept := false } }
    if lost then setCause 4 c1 else c1)

/-- SLEEP_EXIT_COMPLETE (R424, R430, R432): every bank comes back in RET, or OFF where its group is, and the saved state with them; a LOST
bank, or a save area whose CRC-32 is not the one that the island has kept (R425), takes a full load instead. The exit waits for both rails
(R520). -/
def sleepExit (crc : BitVec 32) (s : State) : State :=
  let c := s.ctl
  if c.dev.run = .waking ∧ railsSteady c = true then
    match if decide (c.pwr.saveCrc = some crc) && !anyLost c then c.pwr.saved else none with
    | none => sleepLoad s
    | some v =>
      let s1 := s.onCtl (restore v)
      ((groupBanks c).foldl (fun s k => bankTo1 k.1 k.2 (if bankPolicy s1.ctl k.1 k.2 = 3 then .off else .ret) s) s1).onCtl awake
  else s

/-- The release of isolation (R433): the outputs take their live values, ports, links and interfaces open anew (R87, R106, R125, log 112),
aon_wake falls, and banks of ON-policy groups wake. A link whose beats still wait has their credits yet to come. -/
def isoRelease (s : State) : State :=
  let c := s.ctl
  if bit (reg c pwrSt) 31 = true ∧ c.dev.run = .running then
    let ls := (List.range 12).filter (linkOn c)
    let s1 := s.onCtl (fun c => modReg pwrSt (fun v => setBit v 31 false) { c with
      out := { c.out with aonWake := false }
      pwr := { c.pwr with latch := none }
      port := { c.port with credit := [] }
      mov := { c.mov with
        lpGiven := [], lpOwed := ls.foldl (fun t l => tabPut 0 l (64 - (c.lnd.inbox.filter (fun b => decide (b.link = l))).length) t) [] } })
    let ks := (groupBanks s1.ctl).filter (fun k => decide (policyState s1.ctl k = some .on))
    (settle (s1.onCtl (orderBanks false ks))).onCtl (fun c => pump (landPump c))
  else s

/-- A write to the PWR register at block offset `o`. -/
def pwrWrite (a : Agent) (o : Nat) (v : Word) (s : State) : State :=
  if o = 0x00 then pwrCtrlWrite a v s
  else if o = 0x08 then (if bit v 0 then isoRelease s else s)
  else if 0x40 ≤ o ∧ o < 0x80 then grpWrite a ((o - 0x40) / 4) v s
  else if o = 0x124 then s.onCtl (supStWrite v)
  else s.onCtl (writeStored (rg 12 o) v)

/-- PWR_ISO_RELEASE (R433): a write with go = 1. -/
def execPwrIsoRelease (a : Agent) (v : Word) (s : State) : Ans := .next (hubWrite a (rg 12 0x08) v isoRelease s)

/-- One port cycle (log 2): what ends with it, then Brural's own lines that waited, and the bank moves whose accesses are done (R418, R420,
R475). -/
def portCycle (s : State) : State := if baseLogicOn s.ctl then settle (ownPump (s.onCtl cycleEnd)) else s.onCtl cycleEnd

def execSleepExitComplete (crc : BitVec 32) (s : State) : Ans := .next (sleepExit crc s)

end Sys2Proof.Machine
end

