-- ==== Sys2Proof/Machine/Loader.lean ====
section
/-! DEFINITION. The configuration load: slot checks, the order in which an image is applied, and the start of the device (R136, R139,
R459..R466). -/

namespace Sys2Proof.Machine

/-- Payload length of a section. -/
def secLen (x : Section) : Nat :=
  match x with
  | .reg es => 8 * es.length
  | .boot _ bs => bs.length
  | .note n => n
  | .other _ n => n

/-- The REG entries of a slot, in image order. -/
def slotRegs (x : Slot) : List (Nat × Word) := x.sections.flatMap (fun y => match y with | .reg es => es | _ => [])

/-- Check 0x05: the length covers header, sections and signature exactly. -/
def lengthOk (x : Slot) : Bool :=
  decide (x.length % 64 = 0 ∧ x.length ≤ 32 * 2 ^ 20 ∧ x.length = 256 + (x.sections.map (fun y => 16 + secLen y)).sum + 96)
    && x.sections.all (fun y => decide (secLen y % 8 = 0))

/-- Check 0x08: section types, BOOT ranges, REG size. -/
def sectionsOk (x : Slot) : Bool :=
  x.sections.all (fun y => match y with
    | .other _ _ => false
    | .boot o bs => decide (o + bs.length ≤ 2 ^ 24)
    | _ => true) && decide (8 * (slotRegs x).length ≤ 128 * 1024)

/-- The registers of Table 12-6. -/
def imageReg (o : Nat) : Bool :=
  decide (o ∈ [rgnSplit, brlCfg, brlUnitEn, thyCfg, thyProf, srlCfg, lovCfg, lovCap, lovLaunch, lovQuiet, lovLeakOn, lovLeakRet,
    lovLeakBase, pwrSleepCfg, pwrSupCfg, chvCfg, prtScrubCfg, prtLaneCfg, prtPolicy, fenQseed])
    || (decide (o % 4 = 0) && (decide (rgnEnt 0 ≤ o ∧ o < rgnEnt 8192) || decide (thyLag 0 ≤ o ∧ o < thyLag 4)
      || decide (thyGmap 0 ≤ o ∧ o < thyGmap 16) || decide (lovTok 0 ≤ o ∧ o < lovTok 8) || decide (fenSeed 0 ≤ o ∧ o < fenSeed 16)))

/-- A REG value without a reserved encoding; PWR_SLEEP_CFG.seq falls back to table 0 by its own definition. Bits that are no field of the part
are not looked at, the RGN_SPLIT.k1 and k2 of tiers that are not fitted among them: the spec does not say whether a reserved encoding there
fails check 0x09, and here it passes (DESIGN CHOICE, log 131). -/
def valueOk (p : Part) (e : Nat × Word) : Bool :=
  if rgnEnt 0 ≤ e.1 ∧ e.1 < rgnEnt 8192 then decide (bits e.2 8 2 < 2) && (geoOf (bits e.2 16 8)).isSome
  else (fieldsOf p e.1).all (fun f => f.legal (bits e.2 f.lo f.w) || decide (e.1 = pwrSleepCfg ∧ f.lo = 12))

/-- The value that an image gives a register: its last entry, else the reset value. -/
def imageWord (p : Part) (es : List (Nat × Word)) (o : Nat) : Word :=
  match es.reverse.find? (fun e => decide (e.1 = o)) with
  | some e => e.2
  | none => regReset p o

/-- lag_min of R136 for a service time in 0.1 ns at `mhz`. -/
def lagMin (twc mhz : Nat) : Nat := ceilDiv (ceilDiv (twc * 105 * mhz) 1000000 + 8) 8 * 8

/-- Check 0x0A: every lag is at or above lag_min (R136, R139). -/
def lagsOk (p : Part) (es : List (Nat × Word)) : Bool :=
  let mhz := bits (imageWord p es thyCfg) 0 12
  (List.range 4).all (fun g =>
    let v := imageWord p es (thyLag g)
    decide (lagMin Config.slow.near mhz ≤ bits v 0 10 ∧ lagMin Config.slow.spread mhz ≤ bits v 10 10
      ∧ lagMin Config.slow.far mhz ≤ bits v 20 10))

/-- Check 0x0C (R448, R461). -/
def capOk (p : Part) (es : List (Nat × Word)) : Bool :=
  let v := imageWord p es lovCap
  decide (bits v 0 10 ≤ Config.capW p.tiers ∧ Config.staticW p.tiers + 20 ≤ bits v 0 10 ∧ Config.staticW p.tiers + 20 ≤ bits v 16 10)

/-- The command that reads the flash with 4-byte addresses (R460); none where its SFDP table describes neither method, or nothing answers. -/
def flashRead (f : Flash) : Option Nat :=
  if !f.answers then none else if f.lists13 then some 0x13 else if f.enter4.isSome then some 0x03 else none

/-- The loader finds out the flash device: xspi_rst_n is high, the SFDP table is read, and 4-byte address mode entered where the device needs
that (R460). -/
def flashOpen (f : Flash) (c : Ctl) : Ctl :=
  let c1 := drive (.flash 0x5A (some 0) false) { c with out := { c.out with xspi := { c.out.xspi with rstN := true } } }
  match flashRead f, f.enter4 with
  | some 0x03, some k => drive (.flash k none false) c1
  | _, _ => c1

/-- First flash byte of slot `i`: 1 is A, 2 is B (R460). -/
def slotBase (i : Nat) : Nat := if i = 2 then 0x2000000 else 0

/-- The reads of slot `i`, whose code is `code`, every one with a 4-byte address: the first 4 KiB, and the rest once the header has passed, in
8D-8D-8D mode where the device describes a method to enter that (R460; logs 109, 121). -/
def flashSlot (f : Flash) (i code : Nat) (c : Ctl) : Ctl :=
  match flashRead f with
  | none => c
  | some k =>
    let c1 := drive (.flash k (some (slotBase i)) false) c
    if 1 ≤ code ∧ code ≤ 4 then c1
    else
      match f.octal with
      | some m => drive (.flash k (some (slotBase i + 4096)) true) (drive (.flash m none false) c1)
      | none => drive (.flash k (some (slotBase i + 4096)) false) c1

/-- The code of the first check of Table 12-5 that fails, 0x00 when all pass (R461). -/
def slotCode (c : Ctl) (f : Flash) (x : Slot) : Nat :=
  let p := c.part
  let es := slotRegs x
  if (flashRead f).isNone || !x.reads then 0x01
  else if x.magic ≠ 0x494C5242 then 0x02
  else if x.format ≠ 1 then 0x03
  else if x.compat ≠ p.compat then 0x04
  else if !lengthOk x then 0x05
  else if x.keyHash ≠ c.fuse.keyHash ∨ c.fuse.keyHash = 0 then 0x06
  else if !x.sigOk then 0x07
  else if !sectionsOk x then 0x08
  else if !es.all (fun e => imageReg e.1 && valueOk p e) then 0x09
  else if !lagsOk p es then 0x0A
  else if 3 < bits (imageWord p es rgnSplit) 0 3 then 0x0B
  else if !capOk p es then 0x0C
  else if x.flags % 2 = 1 ∧ bit (imageWord p es brlCfg) 31 = false then 0x0D
  else 0x00

/-- Apply the last entry for register `o` (R463 steps 1 and 2). -/
def applyLast (es : List (Nat × Word)) (o : Nat) (c : Ctl) : Ctl :=
  match es.reverse.find? (fun e => decide (e.1 = o)) with
  | some e => writeStored o e.2 c
  | none => c

/-- The class defaults of the populated entries (R463 step 3): guarded for spread entries alone, where the unit is enabled (R69, R466). -/
def applyDefaults (c : Ctl) : Ctl :=
  if classDefault c 0 = 1 then
    (List.range 4096).foldl (fun c n => if regionPool c n = 2 then c else modReg (rgnEnt n) (fun v => setBits v 8 2 1) c) c
  else c

/-- Apply one other entry (R463 step 4). -/
def applyEntry (c : Ctl) (e : Nat × Word) : Ctl :=
  if e.1 = rgnSplit ∨ e.1 = brlCfg ∨ e.1 = brlUnitEn then c
  else if rgnEnt 0 ≤ e.1 ∧ e.1 < rgnEnt 8192 then
    let n := (e.1 - rgnEnt 0) / 4
    if regionPool c n = 2 then c else setReg e.1 (entAfter c n e.2).1 c
  else if fenSeed 0 ≤ e.1 ∧ e.1 ≤ fenQseed then fenWrite (e.1 - rg 6 0) e.2 c
  else if rg 13 0 ≤ e.1 ∧ e.1 < rg 14 0 then lovWrite (e.1 - rg 13 0) e.2 c
  else writeStored e.1 e.2 c

/-- The image's registers in the order of R463. -/
def applyImage (es : List (Nat × Word)) (c : Ctl) : Ctl :=
  es.foldl applyEntry (applyDefaults (applyLast es brlUnitEn (applyLast es brlCfg (applyLast es rgnSplit c))))

/-- The zero bits that the load sets (R464, R468, R474): the post-mortem region after a power-on only; the pools unless a keep-set that the
reset brought out of SLEEP is kept with an unchanged split. -/
def zeroLoad (c : Ctl) (k : Nat) : Bool :=
  if isPmKey k then decide (c.dev.load = .powerOn)
  else if isBootKey k then true
  else !(c.pwr.keepKept && decide (reg c rgnSplit = c.pwr.keepSplit))

/-- BOOT sections into boot memory (R463). -/
def putBoot (x : Slot) (s : State) : State :=
  x.sections.foldl (fun s y => match y with
    | .boot o bs => putBytes (taBoot + o) bs s
    | _ => s) s

/-- BRL_LOAD_ST: codes of both slots, and which was used (Table 12-13). -/
def loadSt (done fail : Bool) (slot a b : Nat) : Word :=
  BitVec.ofNat 32 ((if done then 2 ^ 31 else 0) + (if fail then 2 ^ 30 else 0) + slot <<< 28 + b <<< 8 + a)

/-- The device starts on an applied image: the lock, seeds, schedule groups, c_rst_req, the present supply condition and the warnings of a
SLEEP just left (R129, R151, R253, R436, R462, R464, R465, R473). A zone whose c_zrst is 1 stays in reset; so does one that has not lowered
c_rst_ack (R467). -/
def startDevice (slot a : Nat) (version : Word) (c : Ctl) : Ctl :=
  let c1 := setReg brlLock 1 (setReg brlLoadSt (loadSt true false slot a (if slot = 2 then 0 else 0xFF)) (setReg brlImgVer version c))
  let c2 := if slot = 2 then raiseInt 4 c1 else c1
  let c3 := (List.range 16).foldl (fun c z => reseedPort z c) (reseedHp (reseedQueues (startGroups c2)))
  let inRst := (List.range 16).filter (fun z => c3.pin.zrst.contains z || c3.pin.rstAck.contains z)
  let c4 := inRst.foldl (fun c z => setDom z .inReset c)
    { c3 with
      out := { c3.out with rstReq := c3.out.rstReq.filter (fun z => c3.pin.zrst.contains z) }
      pwr := { c3.pwr with keepKept := false }
      lov := { c3.lov with tok := 0 }
      dev := { c3.dev with run := .starting, load := .other } }
  let c5 := warnDueNow (fullRateLevels c4.pin.mvA c4.pin.mvB c4)
  if c.dev.load = .lostKeep then latchPwr 2 (modReg pwrSt (fun v => setBit v 30 true) c5) else c5

/-- Slot `slot` (1 is A, 2 is B) is used; `a` is the code of slot A. -/
def useSlot (slot a : Nat) (x : Slot) (s : State) : State :=
  let s1 := s.onCtl (applyImage (slotRegs x))
  let c := s1.ctl
  (putBoot x (s1.onStore (Store.clearWhere (zeroLoad c)))).onCtl (startDevice slot a x.version)

/-- Both slots failed (R462, R465): MP alone opens, and the device is in its fatal condition. -/
def noImage (a b : Nat) (s : State) : State :=
  fatalNow 2 none ((s.onStore (Store.clearWhere isBootKey)).onCtl (fun c =>
    warnDueNow (setReg brlLoadSt (loadSt false true 0 a b) { c with dev := { c.dev with run := .noImage, load := lostLoad c } })))

/-- The loader can run: brl_rst_n, if it was low, rises with this load, base logic has its power or is powered with that rise, and no fatal
condition stands (R456, R459, R476). -/
def canLoad (c : Ctl) : Bool :=
  !c.out.fatal && (decide (c.dev.run = .loading)
    || (decide (c.dev.run = .reset) && !c.pin.devHold && (!c.dev.needPower || (decide (c.dev.load = .powerOn) && railsUp c))))

/-- The lines of boot memory that an image writes. -/
def bootTas (x : Slot) : List Nat := x.sections.flatMap (fun y => match y with | .boot o bs => byteTas (taBoot + o) bs.length | _ => [])

/-- The loader tries slot A, and B only when A fails (R462). lov_dev_id is sampled as the reset is released (R444). -/
def loadSlots (devId : Nat) (f : Flash) (a b : Slot) (s : State) : State :=
  let s1 := s.onCtl (fun c =>
    let c1 := { c with pin := { c.pin with devId := devId % 65536, rstN := true } }
    flashOpen f (if c.dev.run = .loading then c1 else if c.dev.needPower then poweredCtl c1 else startLoading c1))
  let ca := slotCode s1.ctl f a
  let s2 := s1.onCtl (flashSlot f 1 ca)
  if ca = 0 then useSlot 1 0 a s2
  else
    let cb := slotCode s2.ctl f b
    let s3 := s2.onCtl (flashSlot f 2 cb)
    if cb = 0 then useSlot 2 ca b s3 else noImage ca cb s3

/-- A bundle of a slice in use is in full retrain (R395). -/
def anyRetrain (c : Ctl) : Bool := c.prt.lane.any (fun x => x.2.retrain && sliceUsed c (x.1 / 3))

/-- CONFIG_LOAD (R459..R466); the load, which writes zero bits in every bank, waits for a bundle that is in a full retrain (R211, R266, R395). -/
def configLoad (devId : Nat) (f : Flash) (a b : Slot) (s : State) : State :=
  if canLoad s.ctl && !anyRetrain s.ctl then ownWrite (bootTas a ++ bootTas b) (loadSlots devId f a b) s else s

/-- ACIEN_READY (R125, R408, R465): recorded migrations repeated, brl_ready rises, the ports open, and every enabled link channel is given its
64 credits, one a port cycle. It waits until every migration that runs has swapped, of which R408 names the recorded ones (DESIGN CHOICE, log
155). -/
def acienReady (c : Ctl) : Ctl :=
  if c.dev.run = .starting ∧ acienRuns c = true ∧ c.prt.mig.all (fun p => !p.2.active) = true
      ∧ c.prt.retLog.all (fun x => decide (committed c x ≠ 9 * (x / 8) + x % 8)) = true then
    let ls := (List.range 12).filter (linkOn c)
    pump { c with
      dev := { c.dev with run := .running }
      out := { c.out with ready := true }
      mov := { c.mov with lpOwed := ls.foldl (fun t l => tabPut 0 l 64 t) c.mov.lpOwed } }
  else c

def execConfigLoad (x : BootInputs) (a b : Slot) (s : State) : Ans := .next (configLoad x.devId x.flash a b s)
def execAcienReady (s : State) : Ans := nextCtl acienReady s

end Sys2Proof.Machine
end

