-- ==== Sys2Proof/Machine/Registers.lean ====
section
/-! DEFINITION. Register accesses by address: a write of any register by MP or Acien, and a read, which may capture the high word of a
48-bit count (R12..R15, R39, R46, R127, R128, R498, R499, R502). -/

namespace Sys2Proof.Machine

/-- First address of register space (R45). -/
def regBase : Nat := 0xF00000000

/-- An aligned word of register space (R45, R46, R127). -/
def inRegSpace (addr : Nat) : Bool := decide (regBase ≤ addr ∧ addr < 0x1000000000 ∧ addr % 4 = 0)

/-- The write of `v` to the register at offset `o` from 0xF_0000_0000; the layout descriptor table and reserved offsets take no effect
(R13, R483, R498). -/
def blockWrite (a : Agent) (o : Nat) (v : Word) (s : State) : State :=
  if o < 0x100000 ∨ 0x200000 ≤ o then s
  else if (o - 0x100000) / 0x10000 = 0 then brlWrite (o % 0x10000) v s
  else if (o - 0x100000) / 0x10000 = 12 then pwrWrite a (o % 0x10000) v s
  else s.onCtl (unitWrite a o v)

/-- An access that MP makes outside register space, or out of alignment: UNSUPPORTED (R46, R127). During SLEEP entry it waits and is a wake
event, one whose address lies in the PWR block out of alignment among them, of which R127 and R427 do not speak (DESIGN CHOICE, logs 70 and
135). -/
def mpRefused (a : Agent) (c : Ctl) : Ctl :=
  match a with
  | .mp => if hubTakes c .mp 0 then drive (.mpRs .unsupported 0) c else if mpOpen c then noteWake 3 5 c else c
  | .acien => c

/-- mp_rq_rdy for a presented access, a write or a read of an address: it is 0 for one that waits; with none presented it shows that the port is
open (R39, R87, R427, R429). -/
def mpReady (c : Ctl) (rq : Option (Bool × Nat)) : Bool :=
  match rq with
  | none => mpOpen c
  | some (write, addr) =>
    let o := if inRegSpace addr then addr - regBase else 0
    if write then hubTakesWrite c .mp o else hubTakes c .mp o

/-- A register write (R12, R39, R128). -/
def registerWrite (a : Agent) (addr : Nat) (v : Word) (s : State) : State :=
  if inRegSpace addr then
    let o := addr - regBase
    (hubWrite a o v (blockWrite a o v) s).onCtl pump
  else s.onCtl (mpRefused a)

/-- Bits [47:32] that a read of a LO register captures (Tables 11-11, 13-19). -/
def captureHigh (o : Nat) (c : Ctl) : Ctl :=
  let k := o % 0x10000
  if (o - 0x100000) / 0x10000 = 14 ∧ 0x100 ≤ k ∧ k < 0x500 ∧ k % 16 = 8 then
    let x := ctrOf c ((k - 0x100) / 16)
    setCtr ((k - 0x100) / 16) { x with hi := x.cnt / 2 ^ 32 } c
  else if o = rg 12 0x118 then setReg pwrRtcHi (BitVec.ofNat 32 (c.rtc / 2 ^ 32 % 65536)) c
  else c

/-- What a read of the register at offset `o` returns and does: a claim (R362), Acien's removal of a captured entry (R409), a capture of a
high word, or nothing. -/
def readEffect (a : Agent) (o : Nat) (c : Ctl) : Word × Ctl :=
  if 0x100000 ≤ o ∧ (o - 0x100000) / 0x10000 = 4 then lckRead a (o % 0x10000) c
  else if o = rg 11 0x6C then capPop a c
  else (regWord c o, if 0x100000 ≤ o then captureHigh o c else c)

/-- A register read (R46, R87, R127, R502). -/
def registerRead (a : Agent) (addr : Nat) (c : Ctl) : Ctl :=
  if inRegSpace addr then hubRead a (addr - regBase) (readEffect a (addr - regBase)) c else mpRefused a c

/-- REGISTER_WRITE (R12, R46, R127, R128). -/
def execRegisterWrite (a : Agent) (addr : Nat) (v : Word) (s : State) : Ans := .next (registerWrite a addr v s)

/-- CAPTURING_READ (R502). -/
def execCapturingRead (a : Agent) (addr : Nat) (s : State) : Ans := nextCtl (registerRead a addr) s

end Sys2Proof.Machine
end

