-- ==== Sys2Proof/Machine/TestAccess.lean ====
section
/-! DEFINITION. Test access and the clocks: DEV_HOLD and the instruments, fuses, the TAP instruction register, the stack rate pins and the
port clock (R319, R411, R510, R511, R525..R534). -/

namespace Sys2Proof.Machine

/-- The IEEE 1687 network is reached: the TAP's instruction is IJTAG (Table 14-5), and the device does not sleep, where the TAP's inputs are
ignored like every other (R430). -/
def reached (c : Ctl) : Bool := decide (c.tapIr = 0x10) && !slept c

/-- The per-slice instruments of physical slice `p` are reached: the segment insertion bits of its zone and of the slice are set (R527). -/
def sliceReached (c : Ctl) (p : Nat) : Bool := reached c && c.tap.zones.contains (p / 9) && c.tap.slices.contains p

/-- DEV_HOLD (R458, R528): 1 holds Brural in immediate device reset; back at 0 with brl_rst_n high the configuration load runs. -/
def devHold (level : Bool) (s : State) : State :=
  let pinned (v : Bool) (c : Ctl) : Ctl := { c with pin := { c.pin with devHold := v } }
  if s.ctl.pin.devHold = level then s
  else if s.ctl.dev.run = .island then s.onCtl (pinned level)
  else if level then (deviceReset .reset (s.onCtl (pinned true))).onCtl (setCause 2)
  else
    s.onCtl (fun c =>
      let c1 := setCause 2 (pinned false c)
      if c.dev.run = .reset ∧ c.dev.needPower = false ∧ c.pin.rstN = true then startLoading c1 else c1)

/-- An instrument that is reached acts only while DEV_HOLD = 1; else it does nothing and reports refused (R528). One that is not reached does
nothing. -/
def whileHeld (here : Bool) (f : State → State) (s : State) : State :=
  if !here then s else if s.ctl.pin.devHold then f s else s.onCtl (fun c => { c with report := .refused })

/-- The banks that a BIST tests: those of slices that are reached. -/
def bistBanks (c : Ctl) (rs : List BistResult) : List BistResult :=
  rs.filter (fun r => decide (r.slice < Config.physicalSlices ∧ r.bank < bankCount c) && sliceReached c r.slice)

/-- BIST (R530): every tested bank holds zero lines, a preserved bank too. -/
def bist (rs : List BistResult) (s : State) : State :=
  ((bistBanks s.ctl rs).foldl (fun s r => s.onStore (Store.wipeBank r.slice r.bank)) s).onCtl
    (fun c => { c with report := .bist (bistBanks c rs) })

/-- An entry names a place that the part has (R531, R532). -/
def entryFits (c : Ctl) (e : FuseEntry) : Bool :=
  match e with
  | .row b r => decide (b < bankCount c ∧ r < 2048)
  | .column b g i => decide (b < bankCount c ∧ g < 8 ∧ i < 576)
  | .lane t l => decide (t < c.part.tiers ∧ l < 18)

/-- Entries that use the same spares. -/
def sameSpares (a b : FuseEntry) : Bool :=
  match a, b with
  | .row x _, .row y _ => decide (x = y)
  | .column x _ _, .column y _ _ => decide (x = y)
  | .lane x _, .lane y _ => decide (x = y)
  | _, _ => false

/-- How many spares of its kind an entry may draw from (R531, R532). -/
def spareLimit (e : FuseEntry) : Nat :=
  match e with
  | .row _ _ => 16
  | .column _ _ _ => 8
  | .lane _ _ => 2

/-- Append a fuse entry where a spare is left (R531, R532). -/
def appendEntry (c : Ctl) (es : List FuseEntry) (e : FuseEntry) : List FuseEntry :=
  if entryFits c e && decide ((es.filter (sameSpares e)).length < spareLimit e) then es ++ [e] else es

/-- REPAIR (R531, R532): fuse entries are appended and never erased; they apply at the next power-on. -/
def repairSlice (p : Nat) (es : List FuseEntry) (c : Ctl) : Ctl :=
  { c with
    fuse := { c.fuse with repairs := tabMod [] p (fun old => es.foldl (appendEntry c) old) c.fuse.repairs }
    report := .done }

/-- KEY (R533): it programs the key hash and the lock once, and reads them. -/
def keyInstrument (k : KeyOp) (c : Ctl) : Ctl :=
  match k with
  | .program h =>
    if c.fuse.keyLock then { c with report := .refused } else { c with fuse := { c.fuse with keyHash := h, keyLock := true }, report := .done }
  | .read => { c with report := .key c.fuse.keyHash c.fuse.keyLock }

/-- FUSE_READ (Table 14-6): every fuse, those of identity among them (R494, R534). -/
def fuseRead (c : Ctl) : Ctl := { c with report := .fuses c.fuse.keyHash c.fuse.keyLock c.fuse.repairs c.part }

/-- The port clock may change: brl_rst_n low, or SLEEP before PWR_ISO_RELEASE (R511). -/
def clockFree (c : Ctl) : Bool :=
  !c.pin.rstN || decide (c.dev.run = .asleep ∨ c.dev.run = .waking) || bit (reg c pwrSt) 31

/-- PORT_CLOCK_CHANGE (R510, R511): a change of frequency where it may not change, a frequency out of range, or wander beyond 50 ps, leaves the
outputs undefined until the next device reset. -/
def portClock (k : ClockChange) (c : Ctl) : Ctl :=
  let fits := (decide (k.mhz = c.pin.pcMhz) || clockFree c) && decide (1200 ≤ k.mhz ∧ k.mhz ≤ 2400 ∧ k.wander ≤ 50)
  let c1 := { c with pin := { c.pin with pcMhz := k.mhz } }
  if fits then c1 else { c1 with out := { c1.out with vague := true } }

/-- The next state of the TAP controller (IEEE 1149.1, R525; log 120). -/
def TapSt.next (s : TapSt) (tms : Bool) : TapSt :=
  match s with
  | .reset => if tms then .reset else .idle
  | .idle => if tms then .selectDr else .idle
  | .selectDr => if tms then .selectIr else .captureDr
  | .captureDr => if tms then .exit1Dr else .shiftDr
  | .shiftDr => if tms then .exit1Dr else .shiftDr
  | .exit1Dr => if tms then .updateDr else .pauseDr
  | .pauseDr => if tms then .exit2Dr else .pauseDr
  | .exit2Dr => if tms then .updateDr else .shiftDr
  | .updateDr => if tms then .selectDr else .idle
  | .selectIr => if tms then .reset else .captureIr
  | .captureIr => if tms then .exit1Ir else .shiftIr
  | .shiftIr => if tms then .exit1Ir else .shiftIr
  | .exit1Ir => if tms then .updateIr else .pauseIr
  | .pauseIr => if tms then .exit2Ir else .pauseIr
  | .exit2Ir => if tms then .updateIr else .shiftIr
  | .updateIr => if tms then .selectDr else .idle

/-- The register that the TAP selects (Table 14-5). -/
def tapSelects (c : Ctl) : TapReg := if c.tapIr = 0x01 then .idcode else if c.tapIr = 0x10 then .ijtag else .bypass

/-- The IDCODE register (R526). -/
def idcode (p : Part) : Nat := (p.rev % 16) <<< 28 + (0xB200 + 2 * p.tiers) <<< 12 + 0x6B5 <<< 1 + 1

/-- Test-Logic-Reset, or brl_trst_n: IDCODE is selected and every segment closes (R525, R527). -/
def tapReset (c : Ctl) : Ctl := { c with tapIr := 0x01, tap := { c.tap with st := .reset, zones := [], slices := [] } }

/-- What the rise of brl_tck does in the present state: capture, or shift of the instruction register or of the data register that is
selected. The bits of the IEEE 1687 network are not laid out (log 120). -/
def tapShift (tdi : Bool) (c : Ctl) : Ctl :=
  let t := c.tap
  let inBit (n : Nat) : Nat := if tdi then 2 ^ n else 0
  match t.st, tapSelects c with
  | .captureIr, _ => { c with tap := { t with irShift := 0x01 } }
  | .shiftIr, _ => { c with tap := { t with irShift := t.irShift / 2 + inBit 7 } }
  | .captureDr, .idcode => { c with tap := { t with drShift := idcode c.part } }
  | .captureDr, .bypass => { c with tap := { t with drShift := 0 } }
  | .shiftDr, .idcode => { c with tap := { t with drShift := t.drShift / 2 + inBit 31 } }
  | .shiftDr, .bypass => { c with tap := { t with drShift := inBit 0 } }
  | _, _ => c

/-- What follows in the state that the TAP enters: the reset, the update of the instruction, or the next bit on brl_tdo, which is free for the
IEEE 1687 network (log 120). -/
def tapEnter (st : TapSt) (c : Ctl) : Ctl :=
  let c1 := { c with tap := { c.tap with st := st } }
  match st, tapSelects c with
  | .reset, _ => tapReset c1
  | .updateIr, _ => { c1 with tapIr := c.tap.irShift }
  | .shiftIr, _ => { c1 with tap := { c1.tap with tdo := c.tap.irShift.testBit 0 } }
  | .shiftDr, .ijtag => let (n, c2) := freshFree c1; { c2 with tap := { c2.tap with tdo := Config.freeBit n } }
  | .shiftDr, _ => { c1 with tap := { c1.tap with tdo := c.tap.drShift.testBit 0 } }
  | _, _ => c1

/-- What happens at the TAP (R525, R527): a whole scan that loads an instruction or sets segment insertion bits, a slice's within an open
zone, one cycle of brl_tck, or brl_trst_n. -/
def tapStep (t : TapOp) (c : Ctl) : Ctl :=
  match t with
  | .load code => { c with tapIr := code % 256, tap := { c.tap with st := .idle, irShift := code % 256 } }
  | .segments zones slices =>
    if reached c then
      { c with tap := { c.tap with st := .idle, zones := zones, slices := slices.filter (fun p => zones.contains (p / 9)) } }
    else c
  | .tck tms tdi => tapEnter (c.tap.st.next tms) (tapShift tdi c)
  | .reset => tapReset c

/-- The ready signals that Brural drives, each with an index of its own; undefined after a clock change (R511, log 40). -/
def rdyOut (c : Ctl) (i : Nat) (rdy : Bool) : Bool := if c.out.vague then Config.vagueBit c.pc (256 + i) else rdy

/-- p_rq_rdy of a port with the request presented there, of which Lovage counts the whole (R86, R439). -/
def rqRdyOut (c : Ctl) (p : Port) (rq : Option (RqOp × RqFields)) : Bool :=
  rdyOut c (portIndex p) (rqReady c p && (match rq with | some (op, f) => lovAdmits c p op f | none => true))

/-- p_wd_rdy of a port: 0 while no accepted write awaits data (R98). -/
def wdRdyOut (c : Ctl) (p : Port) : Bool := rdyOut c (128 + portIndex p) (wdReady c p && (awaiting c p).isSome)

/-- c_sy_rdy, c_qdb_rdy and c_mb_rdy of a core, and mp_rq_rdy with the access presented. -/
def syRdyOut (c : Ctl) (z : Nat) : Bool := rdyOut c (256 + z) (syReady c z)
def qdbRdyOut (c : Ctl) (z : Nat) : Bool := rdyOut c (272 + z) (coreOpen c z && decide ((chvOf c z).dbs.length < 2))
def mbRdyOut (c : Ctl) (z : Nat) : Bool := rdyOut c (288 + z) (mbReady c z)
def mpRdyOut (c : Ctl) (rq : Option (Bool × Nat)) : Bool := rdyOut c 304 (mpReady c rq)

/-- brl_tdo (Table 14-2). -/
def tdoOut (c : Ctl) : Bool := rdyOut c 312 c.tap.tdo

/-- aon_wake and aon_sleep, and the loader's signals (Tables 11-10, 12-3); undefined after a clock change (R511, log 40). -/
def aonOut (c : Ctl) : Bool × Bool := (rdyOut c 305 c.out.aonWake, rdyOut c 306 c.out.aonSleep)
def xspiOut (c : Ctl) : Xspi :=
  let x := c.out.xspi
  ⟨rdyOut c 307 x.sck, rdyOut c 308 x.csN, rdyOut c 309 x.rstN, if c.out.vague then (Config.vagueTick c.pc 310).toNat % 256 else x.dqO,
    rdyOut c 311 x.dqOe⟩

/-- DEV_HOLD, while the TAP's instruction is IJTAG (R527): as a reset it ends SLEEP (R430, log 160). -/
def execDevHold (level : Bool) (s : State) : Ans := .next (if s.ctl.tapIr = 0x10 then devHold level s else s)

/-- BIST, of the banks that are reached (R527, R530). -/
def execBist (rs : List BistResult) (s : State) : Ans := .next (whileHeld (reached s.ctl) (bist rs) s)

/-- REPAIR of a slice that is reached. -/
def execRepair (p : Nat) (es : List FuseEntry) (s : State) : Ans :=
  .next (whileHeld (sliceReached s.ctl p) (fun s => s.onCtl (repairSlice p es)) s)

/-- LANE_TEST (R527, R528): the failing lanes of a bundle of a slice that is reached. -/
def execLaneTest (p t : Nat) (failing : List Nat) (s : State) : Ans :=
  .next (whileHeld (sliceReached s.ctl p) (fun s => s.onCtl (fun c => { c with report := .lanes p t failing })) s)

/-- BOND_TEST (R527, R528): the broken bonds of a tier interface. -/
def execBondTest (t : Nat) (broken : List Nat) (s : State) : Ans :=
  .next (whileHeld (reached s.ctl) (fun s => s.onCtl (fun c => { c with report := .bonds t broken })) s)

/-- KEY_PROGRAM, and KEY's read (R533). -/
def execKeyProgram (k : KeyOp) (s : State) : Ans := nextCtl (fun c => if reached c then keyInstrument k c else c) s

/-- FUSE_READ (R527). -/
def execFuseRead (s : State) : Ans := nextCtl (fun c => if reached c then fuseRead c else c) s

/-- SPS_RATE_CHANGE (R319). -/
def execSpsRateChange (x rate : Nat) (s : State) : Ans := nextCtl (fun c => if x < 20 then rateChange x rate c else c) s

def execPortClockChange (k : ClockChange) (s : State) : Ans := nextCtl (portClock k) s
/-- TAP_INSTRUCTION; the TAP's inputs are ignored in SLEEP (R430). -/
def execTapInstruction (t : TapOp) (s : State) : Ans := nextCtl (fun c => if slept c then c else tapStep t c) s

end Sys2Proof.Machine
end

