-- ==== Sys2Proof/Machine/Dispatch.lean ====
section
/-! DEFINITION. One meaning per command: an arm for every constructor of Instr. -/

namespace Sys2Proof.Machine

/-- The effect of a command on everything but the queue. -/
def exec (i : Instr) (s : State) : Host.Outcome State Fault Refusal :=
  match i with
  | .read p f => Sys2Proof.Machine.execRead p f s
  | .write p f => Sys2Proof.Machine.execWrite p f s
  | .zmap p f => Sys2Proof.Machine.execZmap p f s
  | .writeDataBeat p lines poison => Sys2Proof.Machine.execWriteDataBeat p lines poison s
  | .responseCredit p => Sys2Proof.Machine.execResponseCredit p s
  | .elasticResponseBeat p id => Sys2Proof.Machine.execElasticResponseBeat p id s
  | .fixedLagDelivery p => Sys2Proof.Machine.execFixedLagDelivery p s
  | .writeResponse p id => Sys2Proof.Machine.execWriteResponse p id s
  | .sliceLineAccess slice meet up => Sys2Proof.Machine.execSliceLineAccess slice meet up s
  | .guardedParityUpdate k up => Sys2Proof.Machine.execGuardedParityUpdate k up s
  | .tagGroupReload slice bank group copyBad => Sys2Proof.Machine.execTagGroupReload slice bank group copyBad s
  | .holdCutoff g => Sys2Proof.Machine.execHoldCutoff g s
  | .holdUnitEnd g => Sys2Proof.Machine.execHoldUnitEnd g s
  | .fullRateHold g => Sys2Proof.Machine.execFullRateHold g s
  | .fullRatePacingChange mvA mvB => Sys2Proof.Machine.execFullRatePacingChange mvA mvB s
  | .thyHoldLong g => Sys2Proof.Machine.execThyHoldLong g s
  | .thyClr by_ v => Sys2Proof.Machine.execThyClr by_ v s
  | .chervilRegister c => Sys2Proof.Machine.execChervilRegister c s
  | .stampGap c => Sys2Proof.Machine.execStampGap c s
  | .writeRangeRetire id => Sys2Proof.Machine.execWriteRangeRetire id s
  | .wcAgeFlush c ta => Sys2Proof.Machine.execWcAgeFlush c ta s
  | .kEnd c seq => Sys2Proof.Machine.execKEnd c seq s
  | .kEndRecord c => Sys2Proof.Machine.execKEndRecord c s
  | .invalidationIssue c => Sys2Proof.Machine.execInvalidationIssue c s
  | .vxInvDone c id => Sys2Proof.Machine.execVxInvDone c id s
  | .invTimeout c id => Sys2Proof.Machine.execInvTimeout c id s
  | .fenReseedZone by_ zones => Sys2Proof.Machine.execFenReseedZone by_ zones s
  | .fenReseedQueues by_ => Sys2Proof.Machine.execFenReseedQueues by_ s
  | .fenReseedHp by_ => Sys2Proof.Machine.execFenReseedHp by_ s
  | .rgnEntWrite by_ n v => Sys2Proof.Machine.execRgnEntWrite by_ n v s
  | .regionClearComplete => Sys2Proof.Machine.execRegionClearComplete s
  | .brlCtrlRemap by_ v => Sys2Proof.Machine.execBrlCtrlRemap by_ v s
  | .movQtailWrite by_ q v => Sys2Proof.Machine.execMovQtailWrite by_ q v s
  | .queueDoorbell c j tail seq => Sys2Proof.Machine.execQueueDoorbell c j tail seq s
  | .doorbellApply c => Sys2Proof.Machine.execDoorbellApply c s
  | .recordFetch q rdy tag => Sys2Proof.Machine.execRecordFetch q rdy tag s
  | .moverTake m => Sys2Proof.Machine.execMoverTake m s
  | .nop q => Sys2Proof.Machine.execNop q s
  | .copy m i1 => Sys2Proof.Machine.execCopy m i1 s
  | .fill m i1 => Sys2Proof.Machine.execFill m i1 s
  | .gather m i1 => Sys2Proof.Machine.execGather m i1 s
  | .scatter m i1 => Sys2Proof.Machine.execScatter m i1 s
  | .route m => Sys2Proof.Machine.execRoute m s
  | .combine m => Sys2Proof.Machine.execCombine m s
  | .pack m i1 => Sys2Proof.Machine.execPack m i1 s
  | .unpack m i1 => Sys2Proof.Machine.execUnpack m i1 s
  | .fold m i1 => Sys2Proof.Machine.execFold m i1 s
  | .send m i1 => Sys2Proof.Machine.execSend m i1 s
  | .lpOutBeat l q => Sys2Proof.Machine.execLpOutBeat l q s
  | .lpOutCredit l => Sys2Proof.Machine.execLpOutCredit l s
  | .queueArrive q => Sys2Proof.Machine.execQueueArrive q s
  | .queueWait q => Sys2Proof.Machine.execQueueWait q s
  | .inval q => Sys2Proof.Machine.execInval q s
  | .fence q => Sys2Proof.Machine.execFence q s
  | .commandEnd q => Sys2Proof.Machine.execCommandEnd q s
  | .completionRecord q => Sys2Proof.Machine.execCompletionRecord q s
  | .stackReadBeat p tag status beat poison => Sys2Proof.Machine.execStackReadBeat p tag status beat poison s
  | .stackWriteResponse p tag status => Sys2Proof.Machine.execStackWriteResponse p tag status s
  | .stackHotRise x rate => Sys2Proof.Machine.execStackHotRise x rate s
  | .stackHotFall x => Sys2Proof.Machine.execStackHotFall x s
  | .stackQuiesce by_ v => Sys2Proof.Machine.execStackQuiesce by_ v s
  | .stackQuiesced x => Sys2Proof.Machine.execStackQuiesced x s
  | .teardown by_ v => Sys2Proof.Machine.execTeardown by_ v s
  | .teardownDone => Sys2Proof.Machine.execTeardownDone s
  | .lpInBeat l win gen off lv poison data => Sys2Proof.Machine.execLpInBeat l win gen off lv poison data s
  | .landingLineAccept k => Sys2Proof.Machine.execLandingLineAccept k s
  | .landingLineRefused k => Sys2Proof.Machine.execLandingLineRefused k s
  | .windowOpen by_ w v => Sys2Proof.Machine.execWindowOpen by_ w v s
  | .windowClose by_ w v => Sys2Proof.Machine.execWindowClose by_ w v s
  | .syArrive c f => Sys2Proof.Machine.execSyArrive c f s
  | .syWait c f => Sys2Proof.Machine.execSyWait c f s
  | .syArriveWait c f => Sys2Proof.Machine.execSyArriveWait c f s
  | .syRetract c f => Sys2Proof.Machine.execSyRetract c f s
  | .sySave c f => Sys2Proof.Machine.execSySave c f s
  | .syRestore c f => Sys2Proof.Machine.execSyRestore c f s
  | .releaseDeliver k => Sys2Proof.Machine.execReleaseDeliver k s
  | .barrierArm by_ n v => Sys2Proof.Machine.execBarrierArm by_ n v s
  | .forceSet by_ n v => Sys2Proof.Machine.execForceSet by_ n v s
  | .forceRel by_ n v => Sys2Proof.Machine.execForceRel by_ n v s
  | .barrierBreak by_ n v => Sys2Proof.Machine.execBarrierBreak by_ n v s
  | .srlDumpGo by_ v => Sys2Proof.Machine.execSrlDumpGo by_ v s
  | .srlDumpDone => Sys2Proof.Machine.execSrlDumpDone s
  | .srlStateUe => Sys2Proof.Machine.execSrlStateUe s
  | .claim c f => Sys2Proof.Machine.execClaim c f s
  | .free c f => Sys2Proof.Machine.execFree c f s
  | .lckClaimRead by_ bmcView i1 => Sys2Proof.Machine.execLckClaimRead by_ bmcView i1 s
  | .lckClaimWrite by_ bmcView i1 v => Sys2Proof.Machine.execLckClaimWrite by_ bmcView i1 v s
  | .mailboxMessage viaCore k v => Sys2Proof.Machine.execMailboxMessage viaCore k v s
  | .mbxAckWrite by_ k v => Sys2Proof.Machine.execMbxAckWrite by_ k v s
  | .mbxDbSet by_ v => Sys2Proof.Machine.execMbxDbSet by_ v s
  | .mbxDbClr by_ v => Sys2Proof.Machine.execMbxDbClr by_ v s
  | .ping k => Sys2Proof.Machine.execPing k s
  | .dump k => Sys2Proof.Machine.execDump k s
  | .migrate k => Sys2Proof.Machine.execMigrate k s
  | .scrubRegion k => Sys2Proof.Machine.execScrubRegion k s
  | .logRead k => Sys2Proof.Machine.execLogRead k s
  | .unknownCommand k => Sys2Proof.Machine.execUnknownCommand k s
  | .scrubAccess slice up => Sys2Proof.Machine.execScrubAccess slice up s
  | .scrubBehind => Sys2Proof.Machine.execScrubBehind s
  | .laneCrcError slice tier lane => Sys2Proof.Machine.execLaneCrcError slice tier lane s
  | .laneRetrain slice tier => Sys2Proof.Machine.execLaneRetrain slice tier s
  | .fullRetrain slice tier handshake => Sys2Proof.Machine.execFullRetrain slice tier handshake s
  | .fullRetrainDone slice tier untrained => Sys2Proof.Machine.execFullRetrainDone slice tier untrained s
  | .migrationStart by_ v => Sys2Proof.Machine.execMigrationStart by_ v s
  | .autoMigrate x => Sys2Proof.Machine.execAutoMigrate x s
  | .migrationCopyLine z up => Sys2Proof.Machine.execMigrationCopyLine z up s
  | .migrationSwap z => Sys2Proof.Machine.execMigrationSwap z s
  | .prtCapPop by_ => Sys2Proof.Machine.execPrtCapPop by_ s
  | .logDrain => Sys2Proof.Machine.execLogDrain s
  | .pwrGrpWrite by_ z v => Sys2Proof.Machine.execPwrGrpWrite by_ z v s
  | .bankIdleRet slice bank => Sys2Proof.Machine.execBankIdleRet slice bank s
  | .bankWake slice bank => Sys2Proof.Machine.execBankWake slice bank s
  | .bankWakeDone slice bank => Sys2Proof.Machine.execBankWakeDone slice bank s
  | .run by_ v => Sys2Proof.Machine.execRun by_ v s
  | .idle by_ v => Sys2Proof.Machine.execIdle by_ v s
  | .sleep by_ v => Sys2Proof.Machine.execSleep by_ v s
  | .sleepStepEnd => Sys2Proof.Machine.execSleepStepEnd s
  | .sleepDrainTimeout => Sys2Proof.Machine.execSleepDrainTimeout s
  | .sleepWakeEvent cls index => Sys2Proof.Machine.execSleepWakeEvent cls index s
  | .rtcAlarm => Sys2Proof.Machine.execRtcAlarm s
  | .sleepExitComplete crcOk => Sys2Proof.Machine.execSleepExitComplete crcOk s
  | .pwrIsoRelease by_ v => Sys2Proof.Machine.execPwrIsoRelease by_ v s
  | .supplyWarn r mv => Sys2Proof.Machine.execSupplyWarn r mv s
  | .wakeFreezeEnd r => Sys2Proof.Machine.execWakeFreezeEnd r s
  | .vaoWarn mv => Sys2Proof.Machine.execVaoWarn mv s
  | .vretLost => Sys2Proof.Machine.execVretLost s
  | .brownOutReset r mv => Sys2Proof.Machine.execBrownOutReset r mv s
  | .vaoLoss => Sys2Proof.Machine.execVaoLoss s
  | .lovageInterval d => Sys2Proof.Machine.execLovageInterval d s
  | .lovPlan v => Sys2Proof.Machine.execLovPlan v s
  | .lovShed level => Sys2Proof.Machine.execLovShed level s
  | .powerOn p => Sys2Proof.Machine.execPowerOn p s
  | .immediateDeviceReset => Sys2Proof.Machine.execImmediateDeviceReset s
  | .requestedDeviceReset byPin => Sys2Proof.Machine.execRequestedDeviceReset byPin s
  | .requestedResetForced => Sys2Proof.Machine.execRequestedResetForced s
  | .configLoad x a b => Sys2Proof.Machine.execConfigLoad x a b s
  | .acienReady => Sys2Proof.Machine.execAcienReady s
  | .domainFence src => Sys2Proof.Machine.execDomainFence src s
  | .domainDrained d => Sys2Proof.Machine.execDomainDrained d s
  | .domainRelease src => Sys2Proof.Machine.execDomainRelease src s
  | .cRstAck c level => Sys2Proof.Machine.execCRstAck c level s
  | .fenceTimeout z => Sys2Proof.Machine.execFenceTimeout z s
  | .brlIsolClear by_ v => Sys2Proof.Machine.execBrlIsolClear by_ v s
  | .fatalCondition k => Sys2Proof.Machine.execFatalCondition k s
  | .brlAbort by_ v => Sys2Proof.Machine.execBrlAbort by_ v s
  | .abortMarker l org hop => Sys2Proof.Machine.execAbortMarker l org hop s
  | .intSet by_ v => Sys2Proof.Machine.execIntSet by_ v s
  | .evcSnap by_ v => Sys2Proof.Machine.execEvcSnap by_ v s
  | .evcClr by_ v => Sys2Proof.Machine.execEvcClr by_ v s
  | .evcSelectWrite by_ i1 flt v => Sys2Proof.Machine.execEvcSelectWrite by_ i1 flt v s
  | .registerWrite by_ addr v => Sys2Proof.Machine.execRegisterWrite by_ addr v s
  | .devHold level => Sys2Proof.Machine.execDevHold level s
  | .bist results => Sys2Proof.Machine.execBist results s
  | .repair slice entries => Sys2Proof.Machine.execRepair slice entries s
  | .laneTest slice tier failing => Sys2Proof.Machine.execLaneTest slice tier failing s
  | .bondTest tier broken => Sys2Proof.Machine.execBondTest tier broken s
  | .keyProgram hash => Sys2Proof.Machine.execKeyProgram hash s
  | .fuseRead => Sys2Proof.Machine.execFuseRead s
  | .railsRestored mvA mvB => Sys2Proof.Machine.execRailsRestored mvA mvB s
  | .spsRateChange x rate => Sys2Proof.Machine.execSpsRateChange x rate s
  | .portClockChange mhz => Sys2Proof.Machine.execPortClockChange mhz s
  | .capturingRead by_ addr => Sys2Proof.Machine.execCapturingRead by_ addr s
  | .tapInstruction op => Sys2Proof.Machine.execTapInstruction op s
  | .aonPorNLow => Sys2Proof.Machine.execAonPorNLow s
  | .brlRstReqFall => Sys2Proof.Machine.execBrlRstReqFall s

end Sys2Proof.Machine
end

