-- ==== Sys2Proof/Safety.lean ====
section
/-! DEFINITION. The terms in which statements are made: a command is answered with a next state of which something holds, memory reads
as before, and registers hold as before. -/

namespace Sys2Proof.Machine

/-- Command `i` at `s` is answered with a next state of which `P` holds. -/
def Answers (i : Instr) (s : State) (P : State → Prop) : Prop := ∃ t, exec i s = .next t ∧ P t

/-- Byte `a` of tensor memory: byte `a % 64` of the stored line with key `a / 64`. -/
def byteAt (s : State) (a : Nat) : Byte := (s.store.data (a / 64)).getD (a % 64) 0

/-- How a stored line reads: its zero bit and whether it is stored poisoned. -/
def lineMarks (s : State) (k : Nat) : Bool × Bool := (s.store.isZero k, s.store.isPoison k)

/-- Every byte of memory, every zero bit and every poison mark reads as before, but those of the lines in `ks`. -/
def SameMemoryBut (ks : List Nat) (s t : State) : Prop :=
  (∀ a, ¬ a / 64 ∈ ks → byteAt t a = byteAt s a) ∧ ∀ k, ¬ k ∈ ks → lineMarks t k = lineMarks s k

/-- All of memory reads as before. -/
def SameMemory (s t : State) : Prop := SameMemoryBut [] s t

/-- Every register kept as a word holds its value, but those at the offsets in `os`. -/
def SameRegsBut (os : List Nat) (s t : State) : Prop := ∀ o, ¬ o ∈ os → reg t.ctl o = reg s.ctl o

/-- All registers kept as words hold their values. -/
def SameRegs (s t : State) : Prop := SameRegsBut [] s t

/-- No response or pulse is held back or made undefined at its edge (R433, R473, R511). -/
def drives (c : Ctl) (e : Edge) : Prop := edgeHeld c e = false ∧ c.out.vague = false

/-- A Sorrel operation with fields `f` that core `z` presents is taken, registered and applied at once: the interface is ready, nothing of
the core is waiting, and the stamp is the expected one (R171, R341, R342). -/
def atItsTurn (c : Ctl) (z : Nat) (f : SyFields) : Prop :=
  syReady c z = true ∧ items c z = [] ∧ (chvOf c z).sy = [] ∧ (chvOf c z).ends = [] ∧ f.seq % 256 = (chvOf c z).e

/-- The command that presents Sorrel operation `k`. -/
def syInstr (k : SyKind) (z : Nat) (f : SyFields) : Instr :=
  match k with
  | .arrive => .syArrive z f
  | .wait => .syWait z f
  | .arriveWait => .syArriveWait z f
  | .retract => .syRetract z f
  | .save => .sySave z f
  | .restore => .syRestore z f
  | .claim => .claim z f
  | .free => .free z f

/-- The hub takes agent `a`'s write to the register at offset `o`, which is not in reset (R128, R427, R465). -/
def takesWrite (s : State) (a : Agent) (o : Nat) : Prop := hubTakes s.ctl a o = true ∧ regInReset s.ctl o = false

/-- Block and offset in it of the register at offset `o`. -/
def blockAt (o : Nat) : Nat := (o - 0x100000) / 0x10000
def inBlock (o : Nat) : Nat := o % 0x10000

/-- A write by `a` of the register at offset `o` does no more than change the word that it is: it is no command of its block, no register that
holds while its queue, window or unit is on or absent, and no window onto state of another kind. -/
def plainReg (c : Ctl) (a : Agent) (o : Nat) : Bool :=
  decide (0x100000 ≤ o ∧ o < 0x200000 ∧ o % 4 = 0) &&
  match blockAt o with
  | 0 => !decide (inBlock o ∈ [0x00, 0x30, 0x40, 0x44, 0x50])
  | 1 => decide (inBlock o ≠ 0x1F0)
  | 2 => true
  | 3 => decide (inBlock o ≠ 0x08 ∧ inBlock o < 0x8000) && !c.srl.dead
  | 6 => decide (inBlock o ≠ 0xC0) && (fennelOn c || (foldOn c && decide (inBlock o = 0x40)))
  | 7 => decide (inBlock o < 0x8000)
  | 8 =>
    if 0x1000 ≤ inBlock o ∧ inBlock o < 0x2200 then
      !decide (inBlock o % 0x40 = 0x10 ∨ inBlock o % 0x40 = 0x14) && !qEn c ((inBlock o - 0x1000) / 0x40)
    else !decide (inBlock o ∈ [0x10, 0x40, 0x4C])
  | 9 =>
    if 0x1000 ≤ inBlock o ∧ inBlock o < 0x3000 then
      decide (inBlock o % 0x20 ≠ 0x14) && !(winOf c ((inBlock o - 0x1000) / 0x20)).isOpen
    else true
  | 10 => decide (inBlock o ≠ 0)
  | 11 => !decide (inBlock o = 0x40 ∧ a = .mp)
  | 12 => !decide (inBlock o ∈ [0x00, 0x08, 0x124] ∨ 0x40 ≤ inBlock o ∧ inBlock o < 0x80)
  | 13 => launchOn c || !decide (inBlock o = 0x08 ∨ inBlock o = 0x0C)
  | _ => false

/-- The line stored at `l` is not poisoned and has no flipped bit. -/
def intact (s : State) (l : Loc) : Prop :=
  tabFind s.store.upsets (keyOf s.ctl l) = none ∧ s.store.isPoison (keyOf s.ctl l) = false

/-- What an intact line reads: zeros where its zero bit is set, else its bytes. -/
def lineAt (s : State) (l : Loc) : Line := if s.store.isZero (keyOf s.ctl l) then zeroLine else s.store.data (keyOf s.ctl l)

/-- The record `ws` at the head of queue `q` is fetched and can start: no command runs, the queue is enabled, and the whole-command checks
pass (R296, R301, R306). -/
def startsAtHead (c : Ctl) (q : Nat) (ws : List Nat) : Prop :=
  q < 72 ∧ (queueOf c q).fetched = some ws ∧ (queueOf c q).run = none ∧ (queueOf c q).tdTail = none ∧ qEn c q = true
    ∧ (queueOf c q).head ≠ qTail c q ∧ moversRun c = true ∧ refusedCommand c (newRun ws (queueOf c q).head none none 0) = false

/-- Mover `m` runs the command `r` of queue `q`, with opcode `op`. -/
def runsOn (c : Ctl) (m op q : Nat) (r : Run) : Prop :=
  c.mov.q.find? (fun p => match p.2.run with | some r => decide (r.mover = some m) | none => false) = some (q, queueOf c q)
    ∧ (queueOf c q).run = some r ∧ r.op = op ∧ r.force = none ∧ r.stop = false

/-- An engine's access to the tensor address `ta` goes to a slice: no region change holds it, and the address is served. -/
def reachesTa (c : Ctl) (write : Bool) (ta : Nat) : Prop :=
  ta < 2 ^ 36 ∧ regionBusy c (canonTa (remapNow c) ta) = false ∧ addrStatus c write (canonTa (remapNow c) ta) = none

/-- Queue `q`'s command can issue its access `acc`, under `key`, to the tensor address `ta` now: it goes to a slice, and Lovage admits its
energy. -/
def takesTa (c : Ctl) (q key ta : Nat) (acc : Acc) : Prop :=
  reachesTa c acc.isWrite ta ∧ lovFull c 4 (moverEnergy c q key (canonTa (remapNow c) ta) acc) = false

/-- The bank of the line at `l` is ON, and under migration the same bank of both of its slices (R403, R416). -/
def banksOn (c : Ctl) (l : Loc) : Prop :=
  (bankOf c (redirect c l.s l.x) l.b).st = .on
    ∧ ((migOf c (l.s / 8)).built = true → (migOf c (l.s / 8)).slice = l.s →
      (bankOf c (migOf c (l.s / 8)).spare l.b).st = .on ∧ (bankOf c (committed c l.s) l.b).st = .on)

/-- The scrubber's or a copy's access `a`, presented in state `s`, can go on, and the arbiter of slice `p` grants it before all that waits there
(R111, R211, R395). -/
def granted (s : State) (p : Nat) (a : Asked) : Prop := backAvail s a = .ready ∧ backgroundFirst s p a = true

/-- Item `it` of core `z`, which waits in `c`, carries the registration number `n` in `t`: a request, a kernel end, a doorbell and a Sorrel
operation, which may have been applied and be gone; a skipped stamp is gone (R171, R175, R187, R305, R342). -/
def hasNumber (c t : Ctl) (z n : Nat) (it : Item) : Prop :=
  match it with
  | .req id => ∃ r ∈ t.port.reqs, r.id = id ∧ r.reg = some n
  | .gone g => (chvOf t z).gone = (chvOf c z).gone.erase g
  | .kend i => (chvOf t z).ends = (chvOf c z).ends.modify i (fun e => { e with reg := some n, since := some (e.since.getD n) })
  | .db i => (chvOf t z).dbs = (chvOf c z).dbs.modify i (fun d => { d with reg := some n })
  | .sy i => (∃ f, (chvOf t z).sy = ((chvOf c z).sy.modify i (fun o => { o with reg := some n })).filter f)
      ∧ ((c.srl.dead || domInReset c 18 || sorrelStill c) = true → (chvOf t z).sy = (chvOf c z).sy.modify i (fun o => { o with reg := some n }))

/-- Bank `b` of physical slice `p` is in state `d`, or is ordered there: a move to it waits for the bank's accesses (R418). -/
def ordered (t : Ctl) (p b : Nat) (d : BankSt) : Prop :=
  (bankOf t p b).st = d ∨ ∃ m ∈ t.pwr.moves, m.key = bankKey p b ∧ m.dst = d

/-- The keys of the lines of the Sorrel dump. -/
def dumpKeys (c : Ctl) : List Nat := dumpTas.filterMap (fun a => (place c a).map (keyOf c))

/-- The Sorrel dump of state `s` for reason `r` stands in memory in `t`, byte by byte where its lines have places of their own and no lost
table discards them (log 159), and no other line has changed; the read of its last line, which is written in part, may correct the array
(R360, R376, Table 9-6). -/
def dumped (r : Nat) (s t : State) : Prop :=
  t.store = (writeDump r s).store ∧ SameMemoryBut (dumpKeys s.ctl) s t
    ∧ SameRegsBut [prtCe, prtUe, prtRbld, prtUrbld, prtEv, prtCapLost] s t
    ∧ (s.store.blur = none → (dumpKeys s.ctl).Nodup → ∀ i l, i < 28256 → place s.ctl (taDump + i / 64 * 64) = some l →
      redirectBad s.ctl l = false → byteAt t (64 * keyOf s.ctl l + i % 64) = (dumpBytes s.ctl r).getD i 0)

/-- In `t` each bank of a group that `P` selects is in the state that its policy gives it in `c`, or is ordered there; the spare of a copy
under way follows the slice that it copies (R403, R415, R418, R420). -/
def followPolicies (c : Ctl) (P : Nat × Nat → Prop) (t : State) : Prop :=
  ∀ k ∈ groupBanks c, P k → (∀ z, (migOf c z).built = true → (migOf c z).spare ≠ k.1) → ∀ d, policyState c k = some d → ordered t.ctl k.1 k.2 d

/-- No bank is OFF, is ordered to another state or is sent OFF by its policy in `c`, and no copy is under way: contents stay (R414, R418). -/
def banksStay (c : Ctl) : Prop :=
  c.pwr.moves = [] ∧ (∀ z, (migOf c z).built = false) ∧ ∀ k ∈ groupBanks c, (bankOf c k.1 k.2).st ≠ .off ∧ policyState c k ≠ some .off

/-- The control state right after a write of `v` to PWR_CTRL, which asks for IDLE or for RUN. -/
def afterReq (c : Ctl) (v : Word) (idle : Bool) : Ctl :=
  { writeStored pwrCtrl v c with pwr := { c.pwr with idleState := idle } }

/-- The state that a fatal condition of kind `k`, in bit `b` of PRT_FATAL and about `zone`, makes of `s` before its crash record: what the check
found is marked, the event recorded and every domain fenced (R386, R476). -/
def atFatal (b : Nat) (zone : Option Nat) (k : FatalKind) (s : State) : State := s.onCtl (fun c => fatalFront b zone (fatalMark k c))

/-- The keys of the lines that the crash record and the dump beside it write, and of Brural's own lines that waited before them; a guarded
one of those is read with its stripe (R360, R381, R475). -/
def recordKeys (c : Ctl) : List Nat :=
  ((recordTas ++ c.dev.own.map Prod.fst).flatMap (fun a => a :: if isGuarded c a then stripe a else [])).filterMap
    (fun a => (place c a).map (keyOf c))

/-- What a fatal condition of kind `k`, in bit `b` of PRT_FATAL and about `zone`, leaves of `s` in `t` (R386, R475, R476, R477): its bit,
BRL_FATAL, brl_fatal, no domain released, the crash record of that moment written, or waiting line by line to be written, no line changed
beside it, and an abort from this device unless one has been seen. -/
def wentFatal (b : Nat) (zone : Option Nat) (k : FatalKind) (s t : State) : Prop :=
  bit (reg t.ctl prtFatal) b = true ∧ bit t.ctl.int.stat 0 = true ∧ t.ctl.out.fatal = true ∧ (∀ d, d < 20 → domReleased t.ctl d = false)
    ∧ t.store = (crashRecord 2 (atFatal b zone k s)).store ∧ t.ctl.dev.own = (crashRecord 2 (atFatal b zone k s)).ctl.dev.own
    ∧ SameMemoryBut (recordKeys s.ctl) s t
    ∧ (s.ctl.dev.seen.contains s.ctl.pin.devId = false →
      bit (reg t.ctl brlAbortSt) 31 = true ∧ bit t.ctl.int.stat 1 = true ∧ ∀ w, (winOf t.ctl w).isOpen = false)

/-- What an abort of origin `org` with `hops` left, that came by `link` or starts here, leaves of `s` in `t` (R477): BRL_ABORT_ST, its
interrupt, every window closed, every barrier bound to a window frozen, and a marker to every other enabled link while hops are left. -/
def wentAbort (org hops : Nat) (link : Option Nat) (s t : State) : Prop :=
  bit (reg t.ctl brlAbortSt) 31 = true ∧ bit t.ctl.int.stat 1 = true
    ∧ (s.ctl.dev.seen.length < 16 → t.ctl.dev.seen = s.ctl.dev.seen ++ [org])
    ∧ (∀ w, (winOf t.ctl w).isOpen = false)
    ∧ (s.ctl.srl.dead = false → ∀ w, w < 256 → winBound s.ctl w < 832 → (barOf t.ctl (winBound s.ctl w)).frozen = true)
    ∧ (∀ k, k < 12 → linkOn s.ctl k = true → link ≠ some k → hops ≠ 0 → drives s.ctl (.abortOut k org (hops - 1)) →
      .abortOut k org (hops - 1) ∈ t.ctl.edge)
    ∧ SameRegsBut [brlAbortSt] s t ∧ SameMemory s t

/-- SLEEP entry ends at step `step`, refused (`kind` 0) or abandoned (1), for the port, queue, zone or unit `index` of class `cls` (R425, R428,
R451): no entry and no save image are left, PWR_SLEEP_FAIL is raised, and where no Sorrel operation waits to be applied its count and its source
are recorded and no other register changes. -/
def entryEnded (kind step cls index : Nat) (s t : State) : Prop :=
  t.ctl.pwr.entry = none ∧ t.ctl.pwr.saved = none ∧ t.ctl.pwr.saveCrc = none ∧ bit (reg t.ctl pwrEv) 0 = true ∧ bit t.ctl.int.stat 9 = true
    ∧ ((∀ z, z < 16 → (chvOf s.ctl z).sy = []) →
      reg t.ctl pwrSleepLast = BitVec.ofNat 32 (kind <<< 31 + step <<< 28 + cls <<< 26 + index)
      ∧ bits (reg t.ctl pwrSleepCnt) 0 16 = min 0xFFFF (bits (reg s.ctl pwrSleepCnt) 0 16 + (1 - kind))
      ∧ bits (reg t.ctl pwrSleepCnt) 16 16 = min 0xFFFF (bits (reg s.ctl pwrSleepCnt) 16 16 + kind)
      ∧ SameRegsBut [pwrSleepCnt, pwrSleepLast, pwrEv, lndLate, lndOor] s t)

/-- The banks that step 4 of SLEEP entry puts onto VRET (Table 11-2). -/
def onBanks (c : Ctl) : List (Nat × Nat) :=
  (usedBanks c).filter (fun k => decide ((bankOf c k.1 k.2).st = .on ∨ (bankOf c k.1 k.2).st = .waking))

/-- Step 3 of SLEEP entry has written its image (R425, R426, Table 11-2): it is valid, the island keeps its CRC-32, and no line outside the save
area has changed. -/
def imageSaved (s t : State) : Prop :=
  t.ctl.pwr.saved = some (savedNow s.ctl) ∧ (∃ g, t.ctl.pwr.saveCrc = some (Config.saveCrc g) ∧ t.store = Store.save g s.store)
    ∧ ∀ k, isSaveKey k = false → lineMarks t k = lineMarks s k ∧ t.store.data k = s.store.data k

/-- What SLEEP entry's step 3 saved has come back in `t`, at an exit from SLEEP that finds no request, no warning and no hold (R432, Table 11-4):
every register that the island does not hold, but the rates of HOT stacks; interrupt causes, enables and lines; selections, snapshots and enables
of the counters; Chervil, Sorrel, the movers and windows, Thyme, Lovage, the streams of Fennel; and every bank in RET, or in OFF by its
policy. -/
def cameBack (v : Saved) (s t : State) : Prop :=
  (∀ o, keptReg o = false → (∀ x ∈ s.ctl.pin.hot, o ≠ movPaceSt x) → reg t.ctl o = tabGet (regReset s.ctl.part o) v.regs o)
    ∧ (∀ o, keptReg o = true → o ≠ pwrSt → reg t.ctl o = reg s.ctl o)
    ∧ t.ctl.int.en = v.int.en ∧ t.ctl.int.map = v.int.map ∧ (∀ n, bit v.int.stat n = true → bit t.ctl.int.stat n = true)
    ∧ t.ctl.evc.run = v.evc.run ∧ t.ctl.evc.enLo = v.evc.enLo ∧ t.ctl.evc.enHi = v.evc.enHi
    ∧ (tabSorted v.evc.ctr = true → ∀ i, (ctrOf t.ctl i).sel = (tabGet Ctr.rest v.evc.ctr i).sel ∧ (ctrOf t.ctl i).flt = (tabGet Ctr.rest v.evc.ctr i).flt
      ∧ (ctrOf t.ctl i).snap = (tabGet Ctr.rest v.evc.ctr i).snap)
    ∧ t.ctl.chv = v.chv ∧ t.ctl.srl = v.srl ∧ t.ctl.lnd = v.lnd ∧ t.ctl.lov = { v.lov with hot := s.ctl.pin.hot }
    ∧ t.ctl.mov = { v.mov with hotSince := t.ctl.mov.hotSince, paceNow := t.ctl.mov.paceNow, sqNow := t.ctl.mov.sqNow }
    ∧ (∀ g, { grpOf t.ctl g with sincePace := 0 } = { tabGet Grp.rest v.grp g with sincePace := 0 })
    ∧ t.ctl.lfsrPort = v.lfsrPort ∧ t.ctl.lfsrQ = v.lfsrQ ∧ t.ctl.lfsrHp = v.lfsrHp
    ∧ t.ctl.prt.cap = v.cap ∧ t.ctl.prt.logLast = v.logLast ∧ t.ctl.prt.lane = v.lane
    ∧ (∀ k ∈ groupBanks s.ctl, (bankOf t.ctl k.1 k.2).st = if bankPolicy t.ctl k.1 k.2 = 3 then .off else .ret)
    ∧ ((∀ k ∈ groupBanks s.ctl, (bankOf s.ctl k.1 k.2).st ≠ .off ∧ bankPolicy t.ctl k.1 k.2 ≠ 3) → SameMemory s t)

/-- What Table 12-9 keeps over a warm device reset stands in `t` as in `s` (R404, R408, R450, R474, R481, R534): the RTC, the registers that no
reset but a power-on resets, but those at the offsets in `os`, which the reset itself writes, and of PWR_ST its count and its lost bit; the lane
failures; the migrations, whose accesses under way are lost; the redirect tables and the retired slices; and the fuses. -/
def keptOver (os : List Nat) (s t : State) : Prop :=
  t.ctl.rtc = s.ctl.rtc ∧ (∀ o, keptReg o = true → o ≠ pwrSt → ¬ o ∈ os → reg t.ctl o = reg s.ctl o)
    ∧ bits (reg t.ctl pwrSt) 0 16 = bits (reg s.ctl pwrSt) 0 16 ∧ bit (reg t.ctl pwrSt) 30 = bit (reg s.ctl pwrSt) 30
    ∧ (tabSorted s.ctl.prt.lane = true → ∀ p b, (laneOf t.ctl p b).failed = (laneOf s.ctl p b).failed
      ∧ (laneOf t.ctl p b).spares = (laneOf s.ctl p b).spares ∧ (laneOf t.ctl p b).degraded = (laneOf s.ctl p b).degraded)
    ∧ (∀ z, migOf t.ctl z = { migOf s.ctl z with asked := none, got := none, put := none })
    ∧ (∀ n, committed t.ctl n = committed s.ctl n) ∧ t.ctl.prt.retired = s.ctl.prt.retired ∧ t.ctl.prt.retLog = s.ctl.prt.retLog
    ∧ t.ctl.prt.badCommitted = s.ctl.prt.badCommitted ∧ t.ctl.prt.badMig = s.ctl.prt.badMig ∧ t.ctl.prt.pendingBad = s.ctl.prt.pendingBad
    ∧ t.ctl.fuse = s.ctl.fuse

/-- The stored line with key `k` over a device reset (R424, R474): as it was, or a zero line where its bank was LOST. -/
def warmLine (s t : State) (k : Nat) : Prop :=
  if s.ctl.pwr.bank.any (fun p => p.2.lost && decide (p.1 = k / 16384)) then lineMarks t k = (true, false)
  else lineMarks t k = lineMarks s k ∧ t.store.data k = s.store.data k

/-- What the registers outside Table 12-9 hold after a device reset (R474): their reset values, but for the rates of HOT stacks that the loader
notes (R333). -/
def resetRegsOver (s t : State) : Prop :=
  ∀ o, keptReg o = false → (∀ x ∈ s.ctl.pin.hot, o ≠ movPaceSt x) → reg t.ctl o = regReset s.ctl.part o

/-- A requested device reset of state `s` has taken effect in `t`, forced or not (R472, R474, R475, R481): `u` is the state with the crash
record, or from the fatal state with what waited of it. -/
def requestTaken (forced : Bool) (u s t : State) : Prop :=
  t.ctl.dev.run = .loading ∧ t.ctl.dev.resetReq = none ∧ t.ctl.port.reqs = []
    ∧ bits (reg t.ctl brlRstCause) 0 3 = 1 ∧ bit (reg t.ctl brlRstCause) 31 = forced
    ∧ (s.ctl.pin.rstReq = true → t.ctl.out.rstAck = true)
    ∧ resetRegsOver s t ∧ keptOver [brlRstCause] s t
    ∧ (∀ k, ¬ k ∈ recordKeys s.ctl → warmLine s t k)
    ∧ (∀ k, s.ctl.pwr.bank.any (fun p => p.2.lost && decide (p.1 = k / 16384)) = false →
      lineMarks t k = lineMarks u k ∧ t.store.data k = u.store.data k)

/-- The last REG entry of slot `x` for the register at offset `o` holds `v`. -/
def lastEntry (x : Slot) (o : Nat) (v : Word) : Prop := (slotRegs x).reverse.find? (fun e => decide (e.1 = o)) = some (o, v)

/-- The BOOT sections of a slot. -/
def bootOf (x : Slot) : List (Nat × List Byte) := x.sections.filterMap (fun y => match y with | .boot o bs => some (o, bs) | _ => none)

/-- The keys of the lines that the BOOT sections of slot `x` write. -/
def bootKeys (c : Ctl) (x : Slot) : List Nat := (bootTas x).filterMap (fun a => (place c a).map (keyOf c))

/-- The registers of slot `x` stand in `t` (R461, R463): every legal field of a register's last entry, and every region's class and format,
unless the unit that the register belongs to is absent or disabled. -/
def regsApplied (x : Slot) (s t : State) : Prop :=
  reg t.ctl brlImgVer = x.version
    ∧ (∀ o v, lastEntry x o v → (o < rgnEnt 0 ∨ rgnEnt 8192 ≤ o) → (fenSeed 0 ≤ o ∧ o ≤ fenQseed → fennelOn t.ctl = true) →
      (o = lovLaunch ∨ o = lovQuiet → launchOn t.ctl = true) → ∀ f ∈ fieldsOf s.ctl.part o,
      f.acc = .rw ∨ (f.acc = .rwl ∧ locked s.ctl = false) → f.legal (bits v f.lo f.w) = true → bits (reg t.ctl o) f.lo f.w = bits v f.lo f.w)
    ∧ (∀ n v, n < 8192 → lastEntry x (rgnEnt n) v → regionPool t.ctl n ≠ 2 →
      regionFmt t.ctl n = fmtFor t.ctl (bits v 16 8)
      ∧ ∀ k, classFor t.ctl n (bits v 8 2) = some k → regionClass t.ctl n = k)

/-- Memory holds what the load of slot `x` leaves there (R463, R464, R474): its BOOT sections; elsewhere zero lines, but for the pools of a
keep-set and, unless the device was powered on, the post-mortem region. -/
def memoryApplied (x : Slot) (s t : State) : Prop :=
  (∃ u, u.store = Store.clearWhere (zeroLoad u.ctl) s.store ∧ u.ctl.dev.load = s.ctl.dev.load ∧ t.store = (putBoot x u).store)
    ∧ (∀ k, ¬ k ∈ bootKeys t.ctl x →
      (isBootKey k = true ∨ (isPmKey k = true ∧ s.ctl.dev.load = .powerOn ∧ s.store.blur = none)
        ∨ (isPmKey k = false ∧ isBootKey k = false ∧ s.ctl.pwr.keepKept = false) → lineMarks t k = (true, false))
      ∧ (isPmKey k = true → isBootKey k = false → s.ctl.dev.load ≠ .powerOn →
        lineMarks t k = lineMarks s k ∧ ∀ i, i < 64 → byteAt t (64 * k + i) = byteAt s (64 * k + i)))
    ∧ (∀ o bs, bootOf x = [(o, bs)] → s.store.blur = none → (bootKeys t.ctl x).Nodup → ∀ i l, i < bs.length →
      place t.ctl (taBoot + (o + i) / 64 * 64) = some l → redirectBad t.ctl l = false → byteAt t (64 * keyOf t.ctl l + (o + i) % 64) = bs.getD i 0)

/-- An access of `owner` to the line at `ta` is on its way. -/
def asks (t : State) (owner : Owner) (ta : Nat) (acc : Acc) : Prop :=
  ∃ o ∈ t.ctl.port.ops, o.owner = owner ∧ o.ta = ta ∧ o.acc = acc

/-- What queue `q` runs in state `t` satisfies `P`. -/
def runs (t : State) (q : Nat) (P : Run → Prop) : Prop := ∃ r, (queueOf t.ctl q).run = some r ∧ P r

end Sys2Proof.Machine
end

