-- ==== Sys2Proof/Certificates/Slice0/Obligations.lean ====
section
/-! DEFINITION. The statements about the model that the provers are given: what each family of commands does, what it leaves as it was, and the
invariants of the whole block. -/

open Sys2Proof Sys2Proof.Machine

/-- An accepted request joins its port ring with its own fields, under the remap setting and the fence of that moment (R84, R102, R101,
R270, R115), and nothing stored or kept in a register changes; that every request accepted during a fence is FENCED, one that R116 refuses whole
included, is the model's reading (log 34). A port that is not ready, or whose source Lovage holds, takes none: outside SLEEP
entry nothing changes but that Lovage knows whom it turned away (R84, R86, R439, R455). Completion of READ, WRITE and ZMAP. -/
def Obligations.RequestsJoinTheirRing : Prop :=
  (∀ (p : Port) (f : RqFields) (i : Instr) (op : RqOp) (s : State),
     (i, op) ∈ [(Instr.read p f, RqOp.read), (Instr.write p f, RqOp.write), (Instr.zmap p f, RqOp.zmap)] →
     rqReady s.ctl p = true → lovAdmits s.ctl p op f = true → (∀ r ∈ s.ctl.port.reqs, r.id < s.ctl.port.serial) →
     Answers i s (fun t =>
       (∃ r ∈ t.ctl.port.reqs, r.id = s.ctl.port.serial ∧ r.port = p ∧ r.op = op ∧ r.f = f ∧ r.remap = remapNow s.ctl
         ∧ r.pc = s.ctl.pc ∧ (portFenced s.ctl p = true → r.verdict = .fenced))
       ∧ t.ctl.port.reqs.length = s.ctl.port.reqs.length + 1 ∧ s.ctl.port.serial < t.ctl.port.serial
       ∧ SameRegs s t ∧ SameMemory s t)) ∧
  (∀ (p : Port) (f : RqFields) (i : Instr) (op : RqOp) (s : State),
     (i, op) ∈ [(Instr.read p f, RqOp.read), (Instr.write p f, RqOp.write), (Instr.zmap p f, RqOp.zmap)] →
     (rqReady s.ctl p && lovAdmits s.ctl p op f) = false → s.ctl.pwr.entry = none →
     exec i s = .next (if rqOpen s.ctl p then s.onCtl (lovTurnedAway (lovSource s.ctl p)) else s))

/-- The numbers of requests stay below the next number, whatever the block does (the invariant that RequestsJoinTheirRing assumes). -/
def Obligations.StepKeepsRequestNumbers : Prop :=
  ∀ (s t : State), (∀ r ∈ s.ctl.port.reqs, r.id < s.ctl.port.serial) → step s = .next t →
    ∀ r ∈ t.ctl.port.reqs, r.id < t.ctl.port.serial

/-- On a fixed-lag port without reservations a READ is due exactly its lag after its acceptance tick (R109). Completion of READ. -/
def Obligations.DeliveryFallsAtItsLag : Prop :=
  ∀ (p : Port) (f : RqFields) (g : Nat) (s : State),
    rqReady s.ctl p = true → fixedLag s.ctl p = true → groupOf s.ctl p = some g → reserved s.ctl p = [] →
    (∀ r ∈ s.ctl.port.reqs, r.id < s.ctl.port.serial) →
    Answers (.read p f) s (fun t => ∃ r ∈ t.ctl.port.reqs, r.id = s.ctl.port.serial ∧ r.tick = (grpOf s.ctl g).tick
      ∧ r.due = some ((grpOf s.ctl g).tick + reqLag s.ctl g (newReq s.ctl p .read f)))

/-- A write data beat goes to the oldest write of its port that awaits data (R98). Completion of WRITE_DATA_BEAT. -/
def Obligations.WriteBeatReachesItsWrite : Prop :=
  ∀ (p : Port) (ls : List Line) (ps : List Bool) (r : Req) (s : State),
    awaiting s.ctl p = some r → wdReady s.ctl p = true →
    Answers (.writeDataBeat p ls ps) s (fun t =>
      (∃ x ∈ t.ctl.port.reqs, x.id = r.id ∧ x.port = p ∧ x.beatsIn = r.beatsIn + 1
        ∧ (r.verdict = .serve → x.wdata = r.wdata ++ beatData p ls ps))
      ∧ t.ctl.port.reqs.length = s.ctl.port.reqs.length ∧ SameRegs s t ∧ SameMemory s t)

/-- A whole unmasked write of a standard line, alone at its slice once what was on its way has reached it, and granted there, stores its bytes
and changes no other line (R16, R111, R263). Completion of SLICE_LINE_ACCESS. -/
def Obligations.SliceStoresALine : Prop :=
  ∀ (p : Nat) (up : Upset) (a : LineOp) (d : Line) (l : Loc) (s v : State), v = s.onCtl toSlices →
    v.ctl.port.ops.filter (fun o => decide (opSlice s.ctl o = some p)) = [a] → a.acc = .write d fullMask false → d.length = 64 →
    place s.ctl a.ta = some l → opAvail v a = .ready → yields v p a = false → isGuarded s.ctl a.ta = false → redirectBad s.ctl l = false →
    banksOn s.ctl l → s.ctl.pwr.moves = [] → s.store.blur = none →
    Answers (.sliceLineAccess p false up) s (fun t =>
      (∀ i, i < 64 → byteAt t (64 * keyOf s.ctl l + i) = d.getD i 0)
      ∧ lineMarks t (keyOf s.ctl l) = (allZero d, false)
      ∧ SameMemoryBut [keyOf s.ctl l] s t ∧ SameRegsBut [prtCapLost, prtEv] s t)

/-- A read of a line, alone at its slice once what was on its way has reached it, and granted there, returns the bytes stored and leaves
memory as it was (R16, R105, R111). Completion of SLICE_LINE_ACCESS. -/
def Obligations.SliceReturnsTheLine : Prop :=
  ∀ (p id n : Nat) (a : LineOp) (l : Loc) (r : Req) (s v : State), v = s.onCtl toSlices →
    v.ctl.port.ops.filter (fun o => decide (opSlice s.ctl o = some p)) = [a] → a.acc = .read → a.undef = false →
    a.owner = .req id n → findReq s.ctl id = some r → r.released = true →
    place s.ctl a.ta = some l → opAvail v a = .ready → yields v p a = false → heldLine s.ctl [a.ta] = false → redirectBad s.ctl l = false →
    banksOn s.ctl l → s.ctl.pwr.moves = [] → tabFind s.store.upsets (keyOf s.ctl l) = none → s.store.isPoison (keyOf s.ctl l) = false →
    s.store.isZero (keyOf s.ctl l) = false →
    Answers (.sliceLineAccess p false []) s (fun t =>
      (∃ x ∈ t.ctl.port.reqs, x.id = id ∧ ∃ y, tabFind x.res n = some y ∧ y.st = .ok ∧ y.data = s.store.data (keyOf s.ctl l))
      ∧ SameMemory s t ∧ SameRegsBut [prtCapLost, prtEv] s t)

/-- A zero-bit group that neither its words nor their copy give back has each of its 64 lines poisoned, under the protocol of a guarded stripe
where it has guarded lines, and no line outside the group and those stripes changes; with a good copy, and while the reload has to wait for a
bank, a bundle or a guarded write, no line changes, and accesses to the group wait with it (R16, R267, R379, R395; that parity follows these
poison stores is log 17, and that a reload which cannot be decided at once waits, and accesses to its group with it, is log 147). Completion of
TAG_GROUP_RELOAD. -/
def Obligations.LostTagGroupIsPoisoned : Prop :=
  ∀ (p b g : Nat) (bad : Bool) (s : State), p < 144 → b < bankCount s.ctl → g < 256 → s.store.blur = none → baseLogicOn s.ctl = true →
    Answers (.tagGroupReload p b g bad) s (fun t =>
      (bad = true → reloadAvail s p b g true = .ready → (∀ i, i < 64 → lineMarks t (physKey p b (64 * g + i)) = (false, true))
        ∧ SameMemoryBut ((List.range 64).map (fun i => physKey p b (64 * g + i))
            ++ (groupGuarded s p b g).flatMap (fun x => (stripe x.1).filterMap (fun a => (place s.ctl a).map (keyOf s.ctl)))) s t)
      ∧ (bad = true → reloadAvail s p b g true ≠ .ready → SameMemory s t)
      ∧ (∀ w, reloadAvail s p b g bad = .wait w → tabFind t.ctl.prt.tagWait (groupKey p b (64 * g)) = some bad)
      ∧ (bad = false → SameMemory s t))

/-- The cut-off of the present pc decides the hold unit two pc ahead, once, and touches no other group (R143, R144, R146); during
SLEEP entry it decides for no unit (R425). Completion of
HOLD_CUTOFF. -/
def Obligations.CutoffDecidesTheHold : Prop :=
  ∀ (g n : Nat) (s : State), thymeRuns s.ctl = true → g < 4 → (grpOf s.ctl g).tested = false → cutoffTick (grpOf s.ctl g) = some n →
    Answers (.holdCutoff g) s (fun t =>
      (grpOf t.ctl g).tested = true
      ∧ (s.ctl.pwr.entry = none →
        (grpOf t.ctl g).next2 = (match holdReason (fullRateHold g s.ctl) g n with | some k => some k | none => (grpOf s.ctl g).next2))
      ∧ (s.ctl.pwr.entry ≠ none → (grpOf t.ctl g).next2 = (grpOf s.ctl g).next2)
      ∧ (grpOf t.ctl g).tick = (grpOf s.ctl g).tick
      ∧ (∀ h, h ≠ g → grpOf t.ctl h = grpOf s.ctl h) ∧ SameRegs s t ∧ SameMemory s t)

/-- Chervil gives the item that carries the expected stamp the next registration number and expects the next stamp; an item outside the stamp
window is registered at once, under that number and with its error, and the expected stamp stays (R171, R173). Completion of CHERVIL_REGISTER. -/
def Obligations.StampsAreRegisteredInOrder : Prop :=
  ∀ (z : Nat) (s : State), z < 16 →
    (∀ p, (items s.ctl z).find? (fun p => decide (128 ≤ stampAhead (chvOf s.ctl z).e p.1)) = none →
      (items s.ctl z).find? (fun p => decide (p.1 = (chvOf s.ctl z).e)) = some p →
      Answers (.chervilRegister z) s (fun t => hasNumber s.ctl t.ctl z s.ctl.port.regNo p.2
        ∧ (chvOf t.ctl z).e = ((chvOf s.ctl z).e + 1) % 256 ∧ t.ctl.port.regNo = s.ctl.port.regNo + 1 ∧ SameMemory s t)) ∧
    (∀ p, (items s.ctl z).find? (fun p => decide (128 ≤ stampAhead (chvOf s.ctl z).e p.1)) = some p →
      Answers (.chervilRegister z) s (fun t => hasNumber s.ctl t.ctl z s.ctl.port.regNo p.2
        ∧ (chvOf t.ctl z).e = (chvOf s.ctl z).e ∧ bit t.ctl.int.stat 21 = true
        ∧ bit (reg t.ctl chvErr) (16 + z) = true ∧ t.ctl.port.regNo = s.ctl.port.regNo + 1 ∧ SameMemory s t))

/-- A missing stamp is skipped once the earliest waiting item, a request, an end, a doorbell or a Sorrel operation (log 75), has waited
CHV_CFG.gap × 256 pc: the lowest waiting stamp becomes the expected one, CHV_ERR.gap is set and CHV_ORDER is raised (R172), except in a fence
(R468). Completion of STAMP_GAP. -/
def Obligations.StampGapIsSkipped : Prop :=
  ∀ (z d p : Nat) (ds ps : List Nat) (s : State), z < 16 → baseLogicOn s.ctl = true → zoneFenced s.ctl z = false →
    waitingStamps s.ctl z = d :: ds → itemPcs s.ctl z = p :: ps →
    ds.foldl min d ≠ 0 → ps.foldl min p + 256 * bits (reg s.ctl chvCfg) 0 8 ≤ s.ctl.pc →
    Answers (.stampGap z) s (fun t => (chvOf t.ctl z).e = ((chvOf s.ctl z).e + ds.foldl min d) % 256
      ∧ bit (reg t.ctl chvErr) z = true ∧ bit t.ctl.int.stat 21 = true ∧ (∀ y, y ≠ z → chvOf t.ctl y = chvOf s.ctl y)
      ∧ SameRegsBut [chvErr] s t ∧ SameMemory s t)

/-- An aged entry, and every entry at a kernel end, leaves the write-combining buffer as a one-line write; the end is kept, at most two are
(R182, R185, R187). Completion of WC_AGE_FLUSH and K_END. -/
def Obligations.WriteCombiningIsFlushed : Prop :=
  (∀ (z : Nat) (e : WcEntry) (s : State), e ∈ (chvOf s.ctl z).wc → e.pc + 8 * bits (reg s.ctl chvCfg) 16 8 ≤ s.ctl.pc →
    Answers (.wcAgeFlush z e.ta) s (fun t => (∀ x ∈ (chvOf t.ctl z).wc, x.ta ≠ e.ta)
      ∧ (∃ o ∈ t.ctl.port.ops, o.owner = .wc z e.members ∧ o.ta = e.ta ∧ o.acc = .write e.data e.mask false)
      ∧ t.ctl.port.reqs = s.ctl.port.reqs ∧ SameRegs s t ∧ SameMemory s t)) ∧
  (∀ (z seq : Nat) (s : State), coreOpen s.ctl z = true → z < 16 →
    Answers (.kEnd z seq) s (fun t => (chvOf t.ctl z).wc = [] ∧ (chvOf t.ctl z).ends.length ≤ 2
      ∧ (∃ e, (chvOf t.ctl z).ends.getLast? = some e ∧ e.seq = seq % 256 ∧ e.reg = none)
      ∧ (∀ x y, (chvOf s.ctl z).ends = [x, y] →
          (chvOf t.ctl z).ends = [x, ⟨seq % 256, none, y.count + 1, s.ctl.pc, y.since⟩])
      ∧ SameRegs s t ∧ SameMemory s t))

/-- An invalidation is sent under a free identifier, one per pc; the cache's answer, or the time limit with its error, ends it (R195,
R199). That the identifier is the lowest free one is the model's choice (log 136), and so is that outstanding, and the time limit, count from
the pc in which it is presented (log 137). Completion of INVALIDATION_ISSUE, VX_INV_DONE and INV_TIMEOUT. -/
def Obligations.InvalidationsAreTracked : Prop :=
  (∀ (z id : Nat) (i : Inv) (rest : List Inv) (s : State), (chvOf s.ctl z).invQ = i :: rest → freeInvId (chvOf s.ctl z) = some id →
    invDriven s.ctl z = false → drives s.ctl (.inv z id i.all i.addr i.granules) →
    Answers (.invalidationIssue z) s (fun t => t.ctl.edge = s.ctl.edge ++ [.inv z id i.all i.addr i.granules]
      ∧ (chvOf t.ctl z).invQ = rest ∧ (chvOf t.ctl z).invOut = (chvOf s.ctl z).invOut ++ [⟨id, i, s.ctl.rtc⟩]
      ∧ exec (.invalidationIssue z) t = .next t ∧ SameRegs s t ∧ SameMemory s t)) ∧
  (∀ (z id : Nat) (s : State),
    Answers (.vxInvDone z id) s (fun t => (∀ o ∈ (chvOf t.ctl z).invOut, o.id ≠ id)
      ∧ (∀ o ∈ (chvOf s.ctl z).invOut, o.id ≠ id → o ∈ (chvOf t.ctl z).invOut)
      ∧ (∀ y, y ≠ z → chvOf t.ctl y = chvOf s.ctl y) ∧ SameRegs s t ∧ SameMemory s t)) ∧
  (∀ (z id : Nat) (o : InvOut) (s : State), z < 16 → baseLogicOn s.ctl = true → (chvOf s.ctl z).invOut.find? (fun o => decide (o.id = id)) = some o →
    o.rtc + 32 * bits (reg s.ctl chvCfg) 28 4 ≤ s.ctl.rtc →
    Answers (.invTimeout z id) s (fun t => (∀ x ∈ (chvOf t.ctl z).invOut, x.id ≠ id) ∧ bit (reg t.ctl chvErrInv) z = true
      ∧ bit t.ctl.int.stat 22 = true ∧ SameRegsBut [chvErrInv, chvInv z] s t ∧ SameMemory s t))

/-- A Sorrel operation at its turn is applied and answered with its status and, for CLAIM, its result: at once, or behind an earlier answer or
an invalidation; the next stamp is expected then (R171, R341, R342). Completion of SY_ARRIVE, SY_WAIT, SY_ARRIVE_WAIT, SY_RETRACT, SY_SAVE,
SY_RESTORE, CLAIM and FREE. -/
def Obligations.SorrelAnswersEveryOperation : Prop :=
  ∀ (k : SyKind) (z : Nat) (f : SyFields) (s : State), atItsTurn s.ctl z f →
    drives s.ctl (.sr z (f.seq % 256) (syApply z k f s.ctl).1 (syApply z k f s.ctl).2.1) →
    Answers (syInstr k z f) s (fun t =>
      (.sr z (f.seq % 256) (syApply z k f s.ctl).1 (syApply z k f s.ctl).2.1 ∈ t.ctl.edge
        ∨ ∃ tok, ⟨.answer z (f.seq % 256) (syApply z k f s.ctl).1 (syApply z k f s.ctl).2.1, tok⟩ ∈ t.ctl.srl.rel)
      ∧ (chvOf t.ctl z).e = (f.seq + 1) % 256 ∧ (chvOf t.ctl z).sy = [] ∧ SameMemory s t)

/-- ARRIVE and RETRACT on an armed barrier count its phase up and down; the arrival that fills the phase completes it; no other barrier
changes (R345). Completion of SY_ARRIVE and SY_RETRACT. -/
def Obligations.ArrivalsCountPhases : Prop :=
  ∀ (z : Nat) (f : SyFields) (s : State), atItsTurn s.ctl z f → f.obj ≤ 831 → f.named = false → (barOf s.ctl f.obj).frozen = false →
    Answers (.syArrive z f) s (fun t =>
      ((barOf s.ctl f.obj).cur + 1 ≠ (barOf s.ctl f.obj).p →
        barOf t.ctl f.obj = { barOf s.ctl f.obj with cur := (barOf s.ctl f.obj).cur + 1, last := z })
      ∧ ((barOf s.ctl f.obj).cur + 1 = (barOf s.ctl f.obj).p → (barOf s.ctl f.obj).nxt ≠ (barOf s.ctl f.obj).p →
        barOf t.ctl f.obj = { barOf s.ctl f.obj with
          ph := ((barOf s.ctl f.obj).ph + 1) % 4, cur := (barOf s.ctl f.obj).nxt, nxt := 0, last := z })
      ∧ (∀ n, n ≠ f.obj → barOf t.ctl n = barOf s.ctl n) ∧ SameMemory s t) ∧
    ((barOf s.ctl f.obj).cur ≠ 0 → Answers (.syRetract z f) s (fun t =>
      barOf t.ctl f.obj = { barOf s.ctl f.obj with cur := (barOf s.ctl f.obj).cur - 1, last := z }
      ∧ (∀ n, n ≠ f.obj → barOf t.ctl n = barOf s.ctl n) ∧ SameRegs s t ∧ SameMemory s t))

/-- WAIT for a phase that has not completed, and ARRIVE_WAIT that does not complete its phase, take a free entry of the core's wait table;
a WAIT for a completed phase takes none (R344, R345, R346). Completion of SY_WAIT and SY_ARRIVE_WAIT. -/
def Obligations.WaitersTakeAnEntry : Prop :=
  ∀ (z e : Nat) (f : SyFields) (s : State), atItsTurn s.ctl z f → f.obj ≤ 831 → (barOf s.ctl f.obj).frozen = false →
    ctxHeld s.ctl z f.ctx = false → freeWt s.ctl z = some e →
    Answers (.syWait z f) s (fun t =>
      (f.ph.testBit 0 = decide ((barOf s.ctl f.obj).ph % 2 = 1) →
        tabFind t.ctl.srl.wt (16 * z + e) = some ⟨f.ctx, f.ph.testBit 0, f.obj, none⟩)
      ∧ (f.ph.testBit 0 ≠ decide ((barOf s.ctl f.obj).ph % 2 = 1) → t.ctl.srl.wt = s.ctl.srl.wt)
      ∧ (∀ n, barOf t.ctl n = barOf s.ctl n) ∧ SameRegs s t ∧ SameMemory s t) ∧
    (f.named = false → (barOf s.ctl f.obj).cur + 1 < (barOf s.ctl f.obj).p → Answers (.syArriveWait z f) s (fun t =>
      tabFind t.ctl.srl.wt (16 * z + e) = some ⟨f.ctx, decide ((barOf s.ctl f.obj).ph % 2 = 1), f.obj, none⟩
      ∧ barOf t.ctl f.obj = { barOf s.ctl f.obj with cur := (barOf s.ctl f.obj).cur + 1, last := z } ∧ SameMemory s t))

/-- SAVE moves each entry of the core's wait table into the same entry of its free save area, and RESTORE moves each entry of the save area
back into the free wait table, but one released there: its wake is queued then, behind the invalidation of its context where it needs one
(R354). SAVE completes with WAIT_FULL and moves nothing while the save area holds an entry; RESTORE completes with OK and moves nothing while
the save area is empty, and with WAIT_FULL, moving nothing, while it holds entries and the wait table does too (R355; which of R355's
sentences holds when both apply is log 24; that RESTORE decides by the present setting of the barrier whether a wake needs an invalidation is log
141). Completion of SY_SAVE and SY_RESTORE. -/
def Obligations.SaveAndRestoreMoveWaiters : Prop :=
  ∀ (z : Nat) (f : SyFields) (s : State), atItsTurn s.ctl z f →
    (wtOf s.ctl z true = [] → (syApply z .save f s.ctl).1 = .ok ∧
      Answers (.sySave z f) s (fun t => wtOf t.ctl z false = []
        ∧ (∀ p ∈ wtOf s.ctl z false, (∀ x ∈ wtOf s.ctl z false, x.1 = p.1 → x = p) → tabFind t.ctl.srl.wt (p.1 + 8) = some p.2)
        ∧ SameRegs s t ∧ SameMemory s t)) ∧
    (wtOf s.ctl z true ≠ [] → (syApply z .save f s.ctl).1 = .waitFull ∧
      Answers (.sySave z f) s (fun t => t.ctl.srl.wt = s.ctl.srl.wt ∧ SameRegs s t ∧ SameMemory s t)) ∧
    (wtOf s.ctl z true = [] → (syApply z .restore f s.ctl).1 = .ok ∧
      Answers (.syRestore z f) s (fun t => t.ctl.srl.wt = s.ctl.srl.wt ∧ SameRegs s t ∧ SameMemory s t)) ∧
    (wtOf s.ctl z true ≠ [] → wtOf s.ctl z false ≠ [] → (syApply z .restore f s.ctl).1 = .waitFull ∧
      Answers (.syRestore z f) s (fun t => t.ctl.srl.wt = s.ctl.srl.wt ∧ SameRegs s t ∧ SameMemory s t)) ∧
    (wtOf s.ctl z false = [] → (syApply z .restore f s.ctl).1 = .ok ∧
      Answers (.syRestore z f) s (fun t => wtOf t.ctl z true = []
        ∧ (∀ p ∈ wtOf s.ctl z true, (∀ x ∈ wtOf s.ctl z true, x.1 = p.1 → x = p) →
          (p.2.pend = none → tabFind t.ctl.srl.wt (p.1 - 8) = some p.2)
          ∧ (∀ b, p.2.pend = some b → tabFind t.ctl.srl.wt (p.1 - 8) = none
            ∧ ∃ tok, ⟨.wake z p.2.ctx b, tok⟩ ∈ t.ctl.srl.rel ∧ (tok.isSome = true ↔ b = false ∧ (barOf s.ctl p.2.bar).rinv = true)))
        ∧ SameRegs s t ∧ SameMemory s t))

/-- CLAIM takes a free lock for the core and leaves a held one; FREE by the owner frees it; a claim view's read and write do the same for MP and
Acien, and the read returns the owner; other locks stay (R362, R363). Completion of CLAIM, FREE, LCK_CLAIM_READ and LCK_CLAIM_WRITE. -/
def Obligations.LocksAreClaimedAndFreed : Prop :=
  (∀ (z : Nat) (f : SyFields) (s : State), atItsTurn s.ctl z f → f.obj ≤ 63 →
    Answers (.claim z f) s (fun t =>
      tabGet 0 t.ctl.srl.lock f.obj = (if tabGet 0 s.ctl.srl.lock f.obj = 0 then z + 1 else tabGet 0 s.ctl.srl.lock f.obj)
      ∧ (∀ i, i ≠ f.obj → tabGet 0 t.ctl.srl.lock i = tabGet 0 s.ctl.srl.lock i) ∧ SameRegs s t ∧ SameMemory s t) ∧
    Answers (.free z f) s (fun t =>
      tabGet 0 t.ctl.srl.lock f.obj = (if tabGet 0 s.ctl.srl.lock f.obj = z + 1 then 0 else tabGet 0 s.ctl.srl.lock f.obj)
      ∧ (∀ i, i ≠ f.obj → tabGet 0 t.ctl.srl.lock i = tabGet 0 s.ctl.srl.lock i) ∧ SameRegs s t ∧ SameMemory s t)) ∧
  (∀ (a : Agent) (b : Bool) (i : Nat) (v : Word) (s : State), i < 64 → s.ctl.srl.dead = false →
    takesWrite s a (rg 4 ((if b then 0x100 else 0) + 4 * i)) →
    Answers (.lckClaimRead a b i) s (fun t =>
      tabGet 0 t.ctl.srl.lock i = (if tabGet 0 s.ctl.srl.lock i = 0 then lockOwner a b + 1 else tabGet 0 s.ctl.srl.lock i)
      ∧ (a = .mp → s.ctl.out.vague = false → t.ctl.edge = s.ctl.edge ++ [.mpRs .ok (BitVec.ofNat 32 (tabGet 0 s.ctl.srl.lock i))])
      ∧ (∀ k, k ≠ i → tabGet 0 t.ctl.srl.lock k = tabGet 0 s.ctl.srl.lock k) ∧ SameRegs s t ∧ SameMemory s t) ∧
    Answers (.lckClaimWrite a b i v) s (fun t =>
      tabGet 0 t.ctl.srl.lock i = (if tabGet 0 s.ctl.srl.lock i = lockOwner a b + 1 then 0 else tabGet 0 s.ctl.srl.lock i)
      ∧ (∀ k, k ≠ i → tabGet 0 t.ctl.srl.lock k = tabGet 0 s.ctl.srl.lock k) ∧ SameRegs s t ∧ SameMemory s t))

/-- A queued delivery whose invalidation has completed is made: the wake or the answer is driven, or the queue's WAIT ends (R197, R341,
R346, R348). Completion of RELEASE_DELIVER. -/
def Obligations.ReleasesAreDelivered : Prop :=
  ∀ (k : Nat) (r : Rel) (s : State), baseLogicOn s.ctl = true → s.ctl.srl.rel[k]? = some r → (∀ n, r.tok = some n → tokDone s.ctl n = true) →
    Answers (.releaseDeliver k) s (fun t =>
      (∀ z x b, r.kind = .wake z x b → drives s.ctl (.wk z x (if b then .broken else .ok)) →
        t.ctl.edge = s.ctl.edge ++ [.wk z x (if b then .broken else .ok)] ∧ t.ctl.srl.rel = s.ctl.srl.rel.eraseIdx k)
      ∧ (∀ q b y, r.kind = .queue q b → (queueOf s.ctl q).run = some y →
        ∃ w, (queueOf t.ctl q).run = some w ∧ w.wait = none ∧ w.complete = true ∧ (b = true → w.force = some .broken))
      ∧ (∀ z q st v, r.kind = .answer z q st v → srDriven s.ctl z = false → drives s.ctl (.sr z q st v) →
        ((s.ctl.srl.rel.take k).any (fun x => match x.kind with | .answer y _ _ _ => decide (y = z) | _ => false)) = false →
        t.ctl.edge = s.ctl.edge ++ [.sr z q st v] ∧ t.ctl.srl.rel = s.ctl.srl.rel.eraseIdx k)
      ∧ SameRegs s t ∧ SameMemory s t)

/-- The parity slice of a guarded write applies the difference to the stripe's parity line, the data line takes the write's line, and the
write is done; where no read waits for the line, no other line changes (R379). A read that waits for it, the two not both privileged, gets the
line as it was before the write, whichever came first (R118), as the write ends (log 119). Completion of GUARDED_PARITY_UPDATE. -/
def Obligations.GuardedWriteAppliesItsDifference : Prop :=
  ∀ (k m : Nat) (d : Line) (j : ParityJob) (l pl : Loc) (s : State), s.ctl.port.parity[k]? = some j → j.op.acc = .write d m false →
    j.poison = false → j.new.length = 64 → j.diff.length = 64 → place s.ctl j.op.ta = some l → j.parityTa = parityTa j.op.ta →
    place s.ctl j.parityTa = some pl → jobAvail s l j [] = .ready → banksOn s.ctl l → banksOn s.ctl pl → intact s pl →
    redirectBad s.ctl l = false → redirectBad s.ctl pl = false → keyOf s.ctl l ≠ keyOf s.ctl pl → s.ctl.pwr.moves = [] →
    (heldReads s j = [] → Answers (.guardedParityUpdate k []) s (fun t =>
      t.ctl.port.parity = s.ctl.port.parity.eraseIdx k
      ∧ t.store.data (keyOf s.ctl pl) = xorLine (lineAt s pl) j.diff ∧ t.store.data (keyOf s.ctl l) = j.new
      ∧ SameMemoryBut [keyOf s.ctl l, keyOf s.ctl pl] s t ∧ SameRegsBut [prtCapLost, prtEv] s t)) ∧
    (∀ (o : LineOp) (id n w m' : Nat) (r : Req), heldReads s j = [o] → o.acc = .read → o.ta = j.op.ta → (j.op.priv && o.priv) = false →
      o.owner = .req id n → j.op.owner = .req w m' → w ≠ id → findReq s.ctl id = some r → r.released = true →
      Answers (.guardedParityUpdate k []) s (fun t =>
        (∃ x ∈ t.ctl.port.reqs, x.id = id ∧ ∃ y, tabFind x.res n = some y ∧ y.st = j.old.st ∧ y.data = j.old.data)
        ∧ t.store.data (keyOf s.ctl pl) = xorLine (lineAt s pl) j.diff ∧ t.store.data (keyOf s.ctl l) = j.new))

/-- A write that changes a region's attributes starts a change that the write waits for; when the requests of before it are done, every line
of the region reads as a zero line, no other line changes, the attributes apply, and beats of the links that waited for room may land (R70,
R72, R73, R125). Completion of RGN_ENT_WRITE and REGION_CLEAR_COMPLETE. -/
def Obligations.RegionChangeClearsTheRegion : Prop :=
  (∀ (a : Agent) (n : Nat) (v : Word) (s : State), n < 8192 → hubTakes s.ctl a (rgnEnt n) = true → regionPool s.ctl n ≠ 2 →
    Answers (.rgnEntWrite a n v) s (fun t =>
      ((entAfter s.ctl n v).1 ≠ reg s.ctl (rgnEnt n) →
        t.ctl.region = some ⟨n, (entAfter s.ctl n v).1, s.ctl.port.serial⟩ ∧ t.ctl.dev.hub = .region a)
      ∧ ((entAfter s.ctl n v).1 = reg s.ctl (rgnEnt n) → t.ctl.region = s.ctl.region)
      ∧ SameRegsBut [pwrEv] s t ∧ SameMemory s t)) ∧
  (∀ (n : Nat) (w : Word) (id : Nat) (s : State), s.ctl.region = some ⟨n, w, id⟩ → regionPending s.ctl ⟨n, w, id⟩ = false →
    regionAwake s.ctl n = true →
    Answers .regionClearComplete s (fun t =>
      (∀ k, (keyTa s.ctl k).bind regionOf = some n → lineMarks t k = (true, false))
      ∧ (∀ b, (keyTa s.ctl (b / 64)).bind regionOf = some n → byteAt t b = 0)
      ∧ (∀ k, (keyTa s.ctl k).bind regionOf ≠ some n → lineMarks t k = lineMarks s k)
      ∧ (∀ b, (keyTa s.ctl (b / 64)).bind regionOf ≠ some n → byteAt t b = byteAt s b)
      ∧ reg t.ctl (rgnEnt n) = w ∧ t.ctl.region = none ∧ (∀ a, s.ctl.dev.hub = .region a → t.ctl.dev.hub = .idle)
      ∧ SameRegsBut [rgnEnt n, lndLate, lndOor] s t))

/-- A tail written by a register or a doorbell becomes the queue's tail, unless the ring has no room for it: then MOV_ERR and RING_ERR are set,
the tail stays, and a write is answered with OK (R302). A doorbell waits for its turn and flushes the write-combining buffer (R182, R305).
Completion of MOV_QTAIL_WRITE, QUEUE_DOORBELL and DOORBELL_APPLY. -/
def Obligations.TailsAreMoved : Prop :=
  (∀ (a : Agent) (q : Nat) (v : Word) (s : State), q < 72 → takesWrite s a (movQtail q) →
    Answers (.movQtailWrite a q v) s (fun t =>
      (ringDist (queueOf s.ctl q).head (bits v 0 16) ≤ qSize s.ctl q →
        reg t.ctl (movQtail q) = BitVec.ofNat 32 (bits v 0 16) ∧ SameRegsBut [movQtail q] s t)
      ∧ (qSize s.ctl q < ringDist (queueOf s.ctl q).head (bits v 0 16) →
        reg t.ctl (movQtail q) = reg s.ctl (movQtail q) ∧ bit (reg t.ctl (movErr (q / 32))) (q % 32) = true ∧ bit t.ctl.int.stat 17 = true
        ∧ SameRegsBut [movErr (q / 32)] s t)
      ∧ (a = .mp → s.ctl.out.vague = false → t.ctl.edge = s.ctl.edge ++ [.mpRs .ok 0]) ∧ SameMemory s t)) ∧
  (∀ (z j tail seq : Nat) (s : State), z < 16 → j < 4 → coreOpen s.ctl z = true → (chvOf s.ctl z).dbs.length < 2 →
    Answers (.queueDoorbell z j tail seq) s (fun t =>
      (chvOf t.ctl z).dbs = (chvOf s.ctl z).dbs ++ [⟨4 * z + j, tail % 65536, seq % 256, none, s.ctl.pc⟩]
      ∧ (chvOf t.ctl z).wc = [] ∧ SameRegs s t ∧ SameMemory s t)) ∧
  (∀ (z n : Nat) (d : Doorbell) (s : State), (chvOf s.ctl z).dbs = [d] → d.reg = some n → writesRetired s.ctl z n = true →
    domInReset s.ctl 16 = false →
    Answers (.doorbellApply z) s (fun t => (chvOf t.ctl z).dbs = []
      ∧ (ringDist (queueOf s.ctl d.q).head d.tail ≤ qSize s.ctl d.q →
        reg t.ctl (movQtail d.q) = BitVec.ofNat 32 d.tail ∧ SameRegsBut [movQtail d.q] s t)
      ∧ (qSize s.ctl d.q < ringDist (queueOf s.ctl d.q).head d.tail → reg t.ctl (movQtail d.q) = reg s.ctl (movQtail d.q)
        ∧ bit (reg t.ctl (movErr (d.q / 32))) (d.q % 32) = true ∧ bit t.ctl.int.stat 17 = true ∧ SameRegsBut [movErr (d.q / 32)] s t)
      ∧ SameMemory s t))

/-- The record at the head of a ring is asked for at the line that the ring base and the head name, in tensor memory or, once the stack or the
host takes the request (R84, R123), over its port, as a read of one line (log 20) under a tag and at the moment that the command names (log
108), and kept once it has come (R301); a free mover takes the queue that R297 picks: the command starts, and head advances (R296, R301).
Completion of RECORD_FETCH and MOVER_TAKE. -/
def Obligations.RecordsAreFetchedAndStarted : Prop :=
  (∀ (q a : Nat) (s : State), q < 72 → (queueOf s.ctl q).came = none → fetchDue s.ctl q = true →
    a = (ringBase s.ctl q 0).a + 64 * ((queueOf s.ctl q).head % qSize s.ctl q) →
    (∀ rdy tag, (ringBase s.ctl q 0).sa = false → reachesTa s.ctl false a →
      Answers (.recordFetch q rdy tag) s (fun t => asks t (.record q) (canonTa (remapNow s.ctl) a) .read ∧ (queueOf t.ctl q).asked = true
        ∧ (queueOf t.ctl q).head = (queueOf s.ctl q).head ∧ SameRegs s t ∧ SameMemory s t)) ∧
    (∀ tag, (ringBase s.ctl q 0).sa = true → a < 2 ^ 48 → Answers (.recordFetch q false tag) s (fun t => t = s)) ∧
    (∀ tag, (ringBase s.ctl q 0).sa = true → a < 2 ^ 48 → saReady s.ctl (saPortOf a) false = true → tag < 1024 →
      tagFree s.ctl (saPortOf a) tag = true →
      Answers (.recordFetch q true tag) s (fun t => ⟨saPortOf a, tag, q, fetchKey, false, []⟩ ∈ t.ctl.mov.sa ∧ (queueOf t.ctl q).asked = true
        ∧ (queueOf t.ctl q).head = (queueOf s.ctl q).head ∧ SameRegs s t ∧ SameMemory s t))) ∧
  (∀ (q : Nat) (rdy : Bool) (tag : Nat) (res : LineRes) (s : State), q < 72 → (queueOf s.ctl q).came = some res → res.st = .ok →
    (queueOf s.ctl q).fetchBad = none → (queueOf s.ctl q).tdTail = none → dataOp ((recordWords res.data).getD 0 0 % 256) = true →
    Answers (.recordFetch q rdy tag) s (fun t => (queueOf t.ctl q).fetched = some (recordWords res.data) ∧ (queueOf t.ctl q).came = none
      ∧ (queueOf t.ctl q).head = (queueOf s.ctl q).head ∧ SameRegs s t ∧ SameMemory s t)) ∧
  (∀ (m q : Nat) (ws : List Nat) (s : State), m < 24 →
    s.ctl.mov.q.any (fun p => match p.2.run with | some r => decide (r.mover = some m) | none => false) = false →
    moversRun s.ctl = true → lovFull s.ctl 4 1 = false → pickQueue s = some q → (queueOf s.ctl q).fetched = some ws →
    Answers (.moverTake m) s (fun t =>
      runs t q (fun r => r.words = ws ∧ r.idx = (queueOf s.ctl q).head ∧ r.done = 0
        ∧ ((r.force = none ∧ r.mover = some m) ∨ (r.force = some .unsupported ∧ r.mover = none)))
      ∧ (queueOf t.ctl q).head = ((queueOf s.ctl q).head + 1) % 65536 ∧ (queueOf t.ctl q).fetched = none
      ∧ SameRegs s t ∧ SameMemory s t))

/-- The sequencer's commands: NOP completes; ARRIVE counts at its barrier; WAIT on a phase that has not completed waits; INVAL queues an
invalidation of each core it names; FENCE completes when no sibling it names runs (R315, R345, R348; that a barrier is acted on whatever the
state of the Sorrel domain is log 153). Completion of NOP, QUEUE_ARRIVE, QUEUE_WAIT, INVAL and FENCE. -/
def Obligations.ControlCommandsRun : Prop :=
  ∀ (q : Nat) (ws : List Nat) (s : State), startsAtHead s.ctl q ws →
    (ws.getD 0 0 % 256 = 0x00 → Answers (.nop q) s (fun t => runs t q (fun r => r.complete = true ∧ r.force = none ∧ r.words = ws)
      ∧ (queueOf t.ctl q).head = ((queueOf s.ctl q).head + 1) % 65536 ∧ SameRegs s t ∧ SameMemory s t)) ∧
    (ws.getD 0 0 % 256 = 0x10 → s.ctl.srl.dead = false → (barOf s.ctl (nbits (ws.getD 0 0) 32 10)).frozen = false →
      (barOf s.ctl (nbits (ws.getD 0 0) 32 10)).cur + 1 ≠ (barOf s.ctl (nbits (ws.getD 0 0) 32 10)).p →
      Answers (.queueArrive q) s (fun t => runs t q (fun r => r.complete = true ∧ r.force = none)
        ∧ barOf t.ctl (nbits (ws.getD 0 0) 32 10) = { barOf s.ctl (nbits (ws.getD 0 0) 32 10) with
            cur := (barOf s.ctl (nbits (ws.getD 0 0) 32 10)).cur + 1, last := 0x40 + q }
        ∧ SameRegs s t ∧ SameMemory s t)) ∧
    (ws.getD 0 0 % 256 = 0x11 → s.ctl.srl.dead = false → (barOf s.ctl (nbits (ws.getD 0 0) 32 10)).frozen = false →
      (ws.getD 0 0).testBit 48 = decide ((barOf s.ctl (nbits (ws.getD 0 0) 32 10)).ph % 2 = 1) →
      Answers (.queueWait q) s (fun t => runs t q (fun r => r.complete = false
          ∧ r.wait = some (nbits (ws.getD 0 0) 32 10, (ws.getD 0 0).testBit 48))
        ∧ tabFind t.ctl.srl.qw q = some (nbits (ws.getD 0 0) 32 10, (ws.getD 0 0).testBit 48) ∧ SameRegs s t ∧ SameMemory s t)) ∧
    (ws.getD 0 0 % 256 = 0x12 → (ws.getD 0 0).testBit 48 = true →
      Answers (.inval q) s (fun t => runs t q (fun r => r.complete = true ∧ r.force = none)
        ∧ (∀ z, z < 16 → (ws.getD 0 0).testBit (32 + z) = true → domReleased s.ctl z = true → devFenced s.ctl = false →
          (chvOf t.ctl z).invQ = (chvOf s.ctl z).invQ ++ [⟨0, true, 0, 1, .inval q⟩])
        ∧ (∀ z, z < 16 → (ws.getD 0 0).testBit (32 + z) = false → chvOf t.ctl z = chvOf s.ctl z) ∧ SameRegs s t ∧ SameMemory s t)) ∧
    (ws.getD 0 0 % 256 = 0x13 →
      Answers (.fence q) s (fun t =>
        ((∀ x ∈ siblings q (nbits (ws.getD 0 0) 32 8), (queueOf s.ctl x).run = none) →
          runs t q (fun r => r.complete = true ∧ r.force = none))
        ∧ (∀ x ∈ siblings q (nbits (ws.getD 0 0) 32 8), ∀ y, (queueOf s.ctl x).run = some y →
          runs t q (fun r => r.complete = false ∧ (x, y.idx) ∈ r.fenceOn))
        ∧ SameRegs s t ∧ SameMemory s t))

/-- A command whose work and invalidations are done ends, and owes its completion record (R192). The record goes to its slot of the completion
ring, as one masked line in tensor memory, or in a system address (log 22) under the port's lowest free tag (log 36); once it has been
accepted, done counts it and MOV_DONE is raised if the command asks for it (R316). Completion of COMMAND_END and COMPLETION_RECORD. -/
def Obligations.CommandsEndAndAreRecorded : Prop :=
  (∀ (q : Nat) (r : Run) (s : State), (queueOf s.ctl q).run = some r → runComplete s.ctl r = true → invsDone s.ctl q = true →
    Answers (.commandEnd q) s (fun t => (queueOf t.ctl q).fin = (queueOf s.ctl q).fin ++ [{ r with mover := none }]
      ∧ ((queueOf s.ctl q).fetched = none → (queueOf s.ctl q).fetchBad = none → (queueOf t.ctl q).run = none)
      ∧ (∀ p, p ≠ q → queueOf t.ctl p = queueOf s.ctl p) ∧ SameRegs s t ∧ SameMemory s t)) ∧
  (∀ (q : Nat) (r : Run) (rest : List Run) (s : State), (queueOf s.ctl q).fin = r :: rest →
    (r.recSt = 4 → Answers (.completionRecord q) s (fun t => (queueOf t.ctl q).done = ((queueOf s.ctl q).done + 1) % 65536
      ∧ (queueOf t.ctl q).fin = rest ∧ ((r.word 0).testBit 9 = true → bit t.ctl.int.stat 15 = true) ∧ SameRegs s t ∧ SameMemory s t)) ∧
    (r.recSt = 0 → (recordLine s.ctl q r).1.sa = false → reachesTa s.ctl true (recordLine s.ctl q r).1.a →
      Answers (.completionRecord q) s (fun t =>
        asks t (.completion q) (canonTa (remapNow s.ctl) (recordLine s.ctl q r).1.a)
          (.write (recordLine s.ctl q r).2.1 (recordLine s.ctl q r).2.2 false)
        ∧ (queueOf t.ctl q).fin = { r with recSt := 3 } :: rest ∧ SameRegs s t ∧ SameMemory s t)) ∧
    (∀ tag, (recordLine s.ctl q r).1.sa = true → (recordLine s.ctl q r).1.a < 2 ^ 48 →
      saTagFree s.ctl (saPortOf (recordLine s.ctl q r).1.a) = some tag → r.recSt = 0 →
      saReady s.ctl (saPortOf (recordLine s.ctl q r).1.a) true = true →
      drives s.ctl (.saRq (saPortOf (recordLine s.ctl q r).1.a) true (recordLine s.ctl q r).1.a 0 (queueQos s.ctl q) tag) →
      Answers (.completionRecord q) s (fun t =>
        .saRq (saPortOf (recordLine s.ctl q r).1.a) true (recordLine s.ctl q r).1.a 0 (queueQos s.ctl q) tag ∈ t.ctl.edge
        ∧ ⟨saPortOf (recordLine s.ctl q r).1.a, tag, q, recordKey, true, []⟩ ∈ t.ctl.mov.sa
        ∧ t.ctl.mov.wd = s.ctl.mov.wd
          ++ lineWd (saPortOf (recordLine s.ctl q r).1.a) tag (recordLine s.ctl q r).2.1 (recordLine s.ctl q r).2.2 false
        ∧ (queueOf t.ctl q).fin = { r with recSt := 3 } :: rest ∧ SameRegs s t ∧ SameMemory s t)))

/-- The step of a moving command that asks for a source line: COPY (from tensor memory and from a stack, one line a request under the lowest
free tag, log 36), SEND, PACK, UNPACK and FOLD for the line the step names, GATHER and SCATTER for the line that the index names (R308,
R310..R313). Memory and registers are as before. Completion of COPY, SEND, GATHER, SCATTER, PACK, UNPACK and FOLD. -/
def Obligations.MoversReadTheirSources : Prop :=
  ∀ (m q i b : Nat) (r : Run) (s : State), i < r.total s.ctl →
    (runsOn s.ctl m 1 q r → ¬ i ∈ r.issued → tabFind r.buf (rKey i) = none →
      b = r.src.a + 64 * (i / ((copyShape r).2.2 * (copyShape r).2.1) * r.q32 5 0 + i / (copyShape r).2.2 % (copyShape r).2.1 * r.q32 4 0
        + i % (copyShape r).2.2) →
      (r.srcSa = false → takesTa s.ctl q (rKey i) b .read →
        Answers (.copy m i) s (fun t => asks t (.mover q (rKey i)) (canonTa (remapNow s.ctl) b) .read
          ∧ runs t q (fun x => i ∈ x.issued ∧ x.outstanding = r.outstanding + 1) ∧ SameRegs s t ∧ SameMemory s t)) ∧
      (∀ tag, r.srcSa = true → b < 2 ^ 48 → saReady s.ctl (saPortOf b) false = true → saTagFree s.ctl (saPortOf b) = some tag →
        Answers (.copy m i) s (fun t => ⟨saPortOf b, tag, q, rKey i, false, []⟩ ∈ t.ctl.mov.sa
          ∧ runs t q (fun x => i ∈ x.issued ∧ x.outstanding = r.outstanding + 1) ∧ SameRegs s t ∧ SameMemory s t))) ∧
    (runsOn s.ctl m 10 q r → r.srcSa = false → ¬ i ∈ r.issued → takesTa s.ctl q (rKey i) (r.src.a + 64 * i) .read →
      Answers (.send m i) s (fun t => asks t (.mover q (rKey i)) (canonTa (remapNow s.ctl) (r.src.a + 64 * i)) .read
        ∧ runs t q (fun x => i ∈ x.issued) ∧ SameRegs s t ∧ SameMemory s t)) ∧
    (∀ (res : LineRes), tabFind r.buf (listKey (i / nbits (r.word 3) 0 32 / 16)) = some res → res.st = .ok → r.srcSa = false →
      ¬ i ∈ r.issued → tabFind r.buf (rKey i) = none →
      (runsOn s.ctl m 3 q r →
        b = r.src.a + 64 * (fieldAt (leNat res.data) 32 (i / nbits (r.word 3) 0 32 % 16) * nbits (r.word 5) 0 32
          + i % nbits (r.word 3) 0 32) → takesTa s.ctl q (rKey i) b .read →
        Answers (.gather m i) s (fun t => asks t (.mover q (rKey i)) (canonTa (remapNow s.ctl) b) .read ∧ SameRegs s t ∧ SameMemory s t)) ∧
      (runsOn s.ctl m 4 q r → b = r.src.a + 64 * i → takesTa s.ctl q (rKey i) b .read →
        Answers (.scatter m i) s (fun t => asks t (.mover q (rKey i)) (canonTa (remapNow s.ctl) b) .read
          ∧ SameRegs s t ∧ SameMemory s t))) ∧
    (∀ k, runsOn s.ctl m 7 q r → r.srcSa = false → ¬ i ∈ r.wrote → packBusy s.ctl r i = false →
      (i + 1) * (geoAt s.ctl r.dstA.a).e ≤ nbits (r.word 3) 0 32 * viewLen r.vty →
      (∀ v ∈ packViews (geoAt s.ctl r.dstA.a) r.vty (nbits (r.word 3) 0 32) i,
        ∃ us, viewOf s.ctl (remapNow s.ctl) r.dstA.a r.vty v = .units us) →
      (packViews (geoAt s.ctl r.dstA.a) r.vty (nbits (r.word 3) 0 32) i).find? (fun v => !r.issued.contains v) = some k →
      takesTa s.ctl q (rKey k) (r.src.a + 64 * k) .read →
      Answers (.pack m i) s (fun t => asks t (.mover q (rKey k)) (canonTa (remapNow s.ctl) (r.src.a + 64 * k)) .read
        ∧ SameRegs s t ∧ SameMemory s t)) ∧
    (∀ (us : List Nat) (n : Nat) (acc : Acc), runsOn s.ctl m 8 q r → ¬ i ∈ r.wrote →
      unpackBusy s.ctl r i = false → viewOf s.ctl (remapNow s.ctl) r.src.a r.vty i = .units us →
      (us.map (fun u => (u - r.src.a) / 64)).find? (fun n => !r.issued.contains n) = some n →
      acc = (match sideOf s.ctl (canonTa (remapNow s.ctl) (r.src.a + 64 * n)) with | some (x, lo, k) => .unitRead x lo k | none => .read) →
      takesTa s.ctl q (rKey n) (r.src.a + 64 * n) acc →
      Answers (.unpack m i) s (fun t => asks t (.mover q (rKey n)) (canonTa (remapNow s.ctl) (r.src.a + 64 * n)) acc
        ∧ SameRegs s t ∧ SameMemory s t)) ∧
    (∀ ss ds, runsOn s.ctl m 9 q r → ¬ i ∈ r.wrote → ¬ 2 * i ∈ r.issued → (ss, ds) = foldSizes s.ctl r →
      (r.sizes = (0, 0) → rowsStill s.ctl r.src.a r.dstA.a = true) → b = r.src.a + 64 * (i * (64 / ds) / (64 / ss)) →
      foldFits s.ctl b ss = true → takesTa s.ctl q (rKey (2 * i)) b .read →
      Answers (.fold m i) s (fun t => asks t (.mover q (rKey (2 * i))) (canonTa (remapNow s.ctl) b) .read ∧ SameRegs s t ∧ SameMemory s t))

/-- The step of a moving command that writes a destination line: COPY, GATHER and SCATTER write what their source returned, a line that is not OK
written poisoned (R308, R310, R323, R545); FILL writes its pattern (R309). Completion of FILL, COPY, GATHER and SCATTER. -/
def Obligations.MoversCopyAndFillLines : Prop :=
  ∀ (m q i b : Nat) (r : Run) (res : LineRes) (acc : Acc) (s : State), i < r.total s.ctl → r.dstSa = false →
    takesTa s.ctl q (wKey i) b acc →
    (runsOn s.ctl m 2 q r → ¬ i ∈ r.issued → b = r.dstA.a + 64 * i →
      acc = .write (List.replicate 8 (leBytes 8 (r.word 4))).flatten fullMask false →
      Answers (.fill m i) s (fun t => asks t (.mover q (wKey i)) (canonTa (remapNow s.ctl) b) acc
        ∧ runs t q (fun x => i ∈ x.issued ∧ x.outstanding = r.outstanding + 1) ∧ SameRegs s t ∧ SameMemory s t)) ∧
    (tabFind r.buf (rKey i) = some res → acc = .write (if res.st = .ok then res.data else zeroLine) fullMask (decide (res.st ≠ .ok)) →
      (runsOn s.ctl m 1 q r →
        b = r.dstA.a + 64 * (i / ((copyShape r).2.2 * (copyShape r).2.1) * r.q32 5 1
          + i / (copyShape r).2.2 % (copyShape r).2.1 * r.q32 4 1 + i % (copyShape r).2.2) →
        Answers (.copy m i) s (fun t =>
          asks t (.mover q (wKey i)) (canonTa (remapNow s.ctl) b) acc ∧ SameRegs s t ∧ SameMemory s t)) ∧
      (∀ idx, tabFind r.buf (listKey (i / nbits (r.word 3) 0 32 / 16)) = some idx → idx.st = .ok →
        (runsOn s.ctl m 3 q r → b = r.dstA.a + 64 * i →
          Answers (.gather m i) s (fun t =>
            asks t (.mover q (wKey i)) (canonTa (remapNow s.ctl) b) acc ∧ SameRegs s t ∧ SameMemory s t)) ∧
        (runsOn s.ctl m 4 q r →
          b = r.dstA.a + 64 * (fieldAt (leNat idx.data) 32 (i / nbits (r.word 3) 0 32 % 16) * nbits (r.word 5) 0 32
            + i % nbits (r.word 3) 0 32) →
          Answers (.scatter m i) s (fun t =>
            asks t (.mover q (wKey i)) (canonTa (remapNow s.ctl) b) acc ∧ SameRegs s t ∧ SameMemory s t))))

/-- Once its source lines have returned, UNPACK writes the expanded view line, poisoned where a unit was not OK (log 26), PACK the quantised
unit with its side entry, and FOLD folds its elements into the destination line (R247, R248, R285, R311, R312). Completion of UNPACK, PACK and
FOLD. -/
def Obligations.MoversConvertLines : Prop :=
  ∀ (m q i : Nat) (r : Run) (rs : List LineRes) (acc : Acc) (s : State), i < r.total s.ctl → ¬ i ∈ r.wrote →
    (∀ us, runsOn s.ctl m 8 q r → r.dstSa = false →
      unpackBusy s.ctl r i = false → viewOf s.ctl (remapNow s.ctl) r.src.a r.vty i = .units us →
      (∀ u ∈ us, (u - r.src.a) / 64 ∈ r.issued) →
      us.map (fun u => tabFind r.buf (rKey ((u - r.src.a) / 64))) = rs.map some →
      acc = .write (if (unpackLine (geoAt s.ctl r.src.a) r.vty i rs).st = .ok then (unpackLine (geoAt s.ctl r.src.a) r.vty i rs).data
        else zeroLine) fullMask (decide ((unpackLine (geoAt s.ctl r.src.a) r.vty i rs).st ≠ .ok)) →
      takesTa (payViews 1 s.ctl) q (wKey i) (r.dstA.a + 64 * i) acc →
      Answers (.unpack m i) s (fun t => asks t (.mover q (wKey i)) (canonTa (remapNow s.ctl) (r.dstA.a + 64 * i)) acc
        ∧ runs t q (fun x => i ∈ x.wrote) ∧ SameRegs s t ∧ SameMemory s t)) ∧
    (∀ views vals qn g, runsOn s.ctl m 7 q r → packBusy s.ctl r i = false → g = geoAt s.ctl r.dstA.a → views = packViews g r.vty (nbits (r.word 3) 0 32) i →
      (i + 1) * g.e ≤ nbits (r.word 3) 0 32 * viewLen r.vty →
      (∀ v ∈ views, v ∈ r.issued ∧ ∃ us, viewOf s.ctl (remapNow s.ctl) r.dstA.a r.vty v = .units us) →
      views.map (fun v => tabFind r.buf (rKey v)) = rs.map some → (∀ x ∈ rs, x.st = .ok) →
      vals = (rs.map (fun x => viewValues r.vty x.data)).flatten →
      qn = quantUnit g (if r.rnd then lfsrValues g.e (lfsrAfter (i * g.e) r.lfsr) else [])
        ((vals.drop (i * g.e - views.headD 0 * viewLen r.vty)).take g.e) →
      acc = (match sideOf s.ctl (canonTa (remapNow s.ctl) (r.dstA.a + 64 * i)) with
        | some (x, lo, _) => .unitWrite qn.pay false x lo qn.entry
        | none => .write qn.pay fullMask false) →
      takesTa (payViews (views.filter (fun v => decide (v * viewLen r.vty / g.e = i))).length s.ctl) q (wKey i) (r.dstA.a + 64 * i) acc →
      Answers (.pack m i) s (fun t => asks t (.mover q (wKey i)) (canonTa (remapNow s.ctl) (r.dstA.a + 64 * i)) acc
        ∧ runs t q (fun x => i ∈ x.wrote) ∧ SameRegs s t ∧ SameMemory s t)) ∧
    (∀ ss ds first cnt h0 h1, runsOn s.ctl m 9 q r → (ss, ds) = foldSizes s.ctl r →
      (r.sizes = (0, 0) → rowsStill s.ctl r.src.a r.dstA.a = true) → (first, cnt, h0, h1) = foldCover ss ds (foldJob s.ctl i r) →
      (∀ k, k < h1 - h0 + 1 → 2 * i + k ∈ r.issued) →
      (List.range (h1 - h0 + 1)).map (fun k => tabFind r.buf (rKey (2 * i + k))) = rs.map some → (∀ x ∈ rs, x.st = .ok) →
      foldFits s.ctl (r.dstA.a + 64 * i) ds = true → (foldSources r.foldOp ss first cnt h0 rs).any Option.isSome = true →
      acc = .fold r.foldOp (nbits (r.word 3) 32 32) r.rnd (if r.rnd then lfsrAfter first r.lfsr else 0) (decide (ds = 4)) (decide (ss = 4))
        .ok (foldSources r.foldOp ss first cnt h0 rs) →
      takesTa s.ctl q (wKey i) (r.dstA.a + 64 * i) acc →
      Answers (.fold m i) s (fun t => asks t (.mover q (wKey i)) (canonTa (remapNow s.ctl) (r.dstA.a + 64 * i)) acc
        ∧ runs t q (fun x => i ∈ x.wrote) ∧ SameRegs s t ∧ SameMemory s t))

/-- ROUTE places the next entry of its list: it writes the entry's slot and flag, counts the expert's entries and moves the row; COMBINE takes
a placed entry's row as fold lines, in the element sizes that its first lines have (logs 18, 143) and with the draws that the start of the
command gave each of them (log 21), and counts one it does not take (R274, R277, R281, R282). Completion of ROUTE and COMBINE. -/
def Obligations.RoutingEntriesAreTaken : Prop :=
  ∀ (m q : Nat) (r : Run) (res : LineRes) (x : RouteEntry) (acc : Acc) (s : State), r.going = [] → r.todo = [] → r.ent < r.entries →
    tabFind r.buf (listKey (r.ent / 4)) = some res → res.st = .ok → x = entryAt res.data r.ent → r.eLo ≤ x.expert → x.expert ≤ r.eHi →
    x.token < r.tokens →
    (∀ n, runsOn s.ctl m 5 q r → x.valid = true → tabGet 0 r.placed x.expert = n → n ≠ r.capacity →
      acc = .write (entryWrite r.ent (x.flags &&& 0xF1 ||| 2) n).1 (entryWrite r.ent (x.flags &&& 0xF1 ||| 2) n).2 false →
      takesTa s.ctl q (auxKey r.ent) (nbits (r.word 3) 0 36 + 64 * (r.ent / 4)) acc →
      Answers (.route m) s (fun t =>
        asks t (.mover q (auxKey r.ent)) (canonTa (remapNow s.ctl) (nbits (r.word 3) 0 36 + 64 * (r.ent / 4))) acc
        ∧ runs t q (fun y => y.ent = r.ent + 1 ∧ tabGet 0 y.placed x.expert = n + 1
          ∧ y.todo = (List.range r.rowLines).map (fun j =>
              ⟨nbits (r.word 1) 0 36 + 64 * (x.token * r.q32 5 0) + 64 * j,
                nbits (r.word 2) 0 36 + 64 * (x.expert * r.q32 5 1 + n * r.rowLines) + 64 * j, 0, 0, 0, 0, 0, 0, 0⟩))
        ∧ SameRegs s t ∧ SameMemory s t)) ∧
    (∀ src dst ss ds, runsOn s.ctl m 6 q r → src = nbits (r.word 2) 0 36 + 64 * (x.expert * r.q32 5 1 + x.slot * r.rowLines) →
      dst = nbits (r.word 4) 0 36 + 64 * (x.token * r.q32 5 0) → ss = rowSize s.ctl src → ds = rowSize s.ctl dst →
      rowsStill s.ctl src dst = true → Answers (.combine m) s (fun t => runs t q (fun y => y.ent = r.ent + 1
          ∧ (x.placed = true → x.slot < r.capacity → y.detail = r.detail
            ∧ y.todo = (List.range (ceilDiv (64 * r.rowLines / ss * ds) 64)).map (fun k =>
              ⟨src, dst, ss, ds, 64 * r.rowLines / ss, k, x.weight, tabGet r.lfsr r.draws (drawKey r.ent (k * (64 / ds) / 16)), r.ent⟩))
          ∧ (x.placed = false → y.todo = [] ∧ y.detail = satAdd 32 r.detail 1))
        ∧ SameRegs s t ∧ SameMemory s t))

/-- A stack's or the host's answer, under the tag of an outstanding request, reaches the command, the record fetch or the completion record
that asked, with the status of its code; a read beat spends a response credit; on outbound HP a beat carries the half of the line that its index
names; a beat that is not the last is kept, and the last one completes the line with the status of highest precedence (R121, R123, R323).
Completion of STACK_READ_BEAT and STACK_WRITE_RESPONSE. -/
def Obligations.StackAnswersReachTheirCommand : Prop :=
  ∀ (p : SaPort) (tag code : Nat) (x : SaReq) (s : State),
    (∀ (b : RsBeat) (bad : Bool) (got : List (Nat × Status × List Byte)), saFind s.ctl p tag false = some x → b.last = false →
      tabGet 0 s.ctl.mov.saCredit (saIndex p) ≠ 0 →
      got = x.got ++ [(b.bidx, saStatus code bad, (List.range (64 / lineBeats p)).map (fun i => b.data.getD i 0))] →
      Answers (.stackReadBeat p tag code b bad) s (fun t => { x with got := got } ∈ t.ctl.mov.sa ∧ t.ctl.mov.q = s.ctl.mov.q
        ∧ tabGet 0 t.ctl.mov.saCredit (saIndex p) + 1 = tabGet 0 s.ctl.mov.saCredit (saIndex p) ∧ SameRegs s t ∧ SameMemory s t)) ∧
    (∀ (b : RsBeat) (bad : Bool) (got : List (Nat × Status × List Byte)) (st : Status) (res : LineRes), saFind s.ctl p tag false = some x →
      b.last = true → tabGet 0 s.ctl.mov.saCredit (saIndex p) ≠ 0 →
      got = x.got ++ [(b.bidx, saStatus code bad, (List.range (64 / lineBeats p)).map (fun i => b.data.getD i 0))] →
      st = got.foldl (fun a y => worst a y.2.1) .ok →
      res = { resData (if st = .ok then saLine p got else zeroLine) false with st := st } →
      Answers (.stackReadBeat p tag code b bad) s (fun t =>
        (∀ r, x.key ≠ fetchKey → x.key ≠ recordKey → (queueOf s.ctl x.q).run = some r → runs t x.q (fun y => y = r.got false x.key res))
        ∧ (x.key = fetchKey → (queueOf s.ctl x.q).stale = false → (queueOf t.ctl x.q).came = some res)
        ∧ tabGet 0 t.ctl.mov.saCredit (saIndex p) + 1 = tabGet 0 s.ctl.mov.saCredit (saIndex p)
        ∧ (¬ x ∈ t.ctl.mov.sa) ∧ SameRegs s t ∧ SameMemory s t)) ∧
    (saFind s.ctl p tag true = some x → (∀ b ∈ s.ctl.mov.wd, b.port = p → b.tag ≠ tag) →
      Answers (.stackWriteResponse p tag code) s (fun t =>
        (∀ r, x.key ≠ fetchKey → x.key ≠ recordKey → (queueOf s.ctl x.q).run = some r →
          runs t x.q (fun y => y = r.got true x.key (resSt (saStatus code false))))
        ∧ (∀ r rest, x.key = recordKey → (queueOf s.ctl x.q).fin = r :: rest →
          (queueOf t.ctl x.q).fin = { r with recSt := 4 } :: rest)
        ∧ (¬ x ∈ t.ctl.mov.sa) ∧ SameRegs s t ∧ SameMemory s t))

/-- The HOT input of a stack: its rise latches the stack, its rate and MOV_PACE; its fall adds the time HOT to MOV_PACE_ST (R319, R321), while
the movers have power and are not in reset. Completion of STACK_HOT_RISE, STACK_HOT_FALL and SPS_RATE_CHANGE. -/
def Obligations.HotStacksArePaced : Prop :=
  ∀ (x rate : Nat) (s : State), pacesRun s.ctl = true →
    (x < 20 → s.ctl.pin.hot.contains x = false →
      Answers (.stackHotRise x rate) s (fun t => t.ctl.pin.hot.contains x = true ∧ tabGet 0 t.ctl.pin.rate x = rate % 256
        ∧ bit (reg t.ctl movHotLat) x = true ∧ bits (reg t.ctl (movPaceSt x)) 24 8 = rate % 256 ∧ bit t.ctl.int.stat 18 = true
        ∧ SameRegsBut [movHotLat, movPaceSt x] s t ∧ SameMemory s t)) ∧
    (s.ctl.pin.hot.contains x = true →
      Answers (.stackHotFall x) s (fun t => t.ctl.pin.hot.contains x = false ∧ bits (reg t.ctl (movPaceSt x)) 0 24 = hotUs s.ctl x
        ∧ SameRegsBut [movPaceSt x] s t ∧ SameMemory s t) ∧
      (x < 20 → Answers (.spsRateChange x rate) s (fun t => tabGet 0 t.ctl.pin.rate x = rate % 256
        ∧ bits (reg t.ctl (movPaceSt x)) 24 8 = rate % 256 ∧ SameRegsBut [movPaceSt x] s t ∧ SameMemory s t)))

/-- MOV_SQ quiesces the stacks it names, and ends the quiesce of the others with the next port cycle; a stack without outstanding requests is
idle (R322). One teardown runs at a time, and a write while it runs is counted; it stops the queues and closes the windows of its context, and
ends once every stopped queue has recorded its commands (R330). Completion of STACK_QUIESCE, STACK_QUIESCED, TEARDOWN and TEARDOWN_DONE. -/
def Obligations.QuiesceAndTeardown : Prop :=
  (∀ (a : Agent) (v : Word) (s : State), takesWrite s a movSq →
    Answers (.stackQuiesce a v) s (fun t => (∀ x, x < 20 → bit (reg t.ctl movSq) x = bit v x
      ∧ quiesced t.ctl x = (bit v x || s.ctl.mov.sqNow.contains x)) ∧ SameRegsBut [movSq] s t ∧ SameMemory s t)) ∧
  (∀ (x : Nat) (s : State), x < 20 → bit (reg s.ctl movSq) x = true → saOut s.ctl (.sp x) = [] →
    Answers (.stackQuiesced x) s (fun t => x ∈ t.ctl.mov.sqIdle ∧ SameRegs s t ∧ SameMemory s t)) ∧
  (∀ (a : Agent) (v : Word) (s : State), takesWrite s a (rg 8 0x10) → s.ctl.mov.td = none →
    Answers (.teardown a v) s (fun t =>
      (∀ q, q < 72 → bits (reg s.ctl (movQctrl q)) 24 8 = bits v 0 8 → qEn t.ctl q = false
        ∧ ∀ r, (queueOf s.ctl q).run = some r → runs t q (fun y => y.stop = true ∧ y.force = some .aborted))
      ∧ (∀ w, (winOf s.ctl w).isOpen = true → winCtx s.ctl w = bits v 0 8 → (winOf t.ctl w).isOpen = false)
      ∧ t.ctl.mov.td.isSome = true ∧ bit (reg t.ctl movTdSt) 31 = true ∧ bits (reg t.ctl movTdSt) 0 8 = bits v 0 8
      ∧ SameRegsBut (movTdSt :: ((List.range 72).filter (fun q => decide (bits (reg s.ctl (movQctrl q)) 24 8 = bits v 0 8))).map movQctrl) s t
      ∧ SameMemory s t)) ∧
  (∀ (a : Agent) (v : Word) (d : Td) (s : State), takesWrite s a (rg 8 0x10) → s.ctl.mov.td = some d →
    Answers (.teardown a v) s (fun t => t.ctl.mov.td = some d
      ∧ bits (reg t.ctl movTdSt) 16 8 = min 255 (bits (reg s.ctl movTdSt) 16 8 + 1) ∧ SameRegsBut [movTdSt] s t ∧ SameMemory s t)) ∧
  (∀ (d : Td) (s : State), s.ctl.mov.td = some d → d.queues.all (queueStopped s.ctl) = true →
    Answers .teardownDone s (fun t => t.ctl.mov.td = none ∧ bit t.ctl.int.stat 16 = true ∧ bit (reg t.ctl movTdSt) 31 = false
      ∧ (∀ q ∈ d.queues, (queueOf t.ctl q).tdTail = none) ∧ SameRegsBut [movTdSt] s t ∧ SameMemory s t))

/-- LND_WCTRL opens a window that is set up and closes it with a new generation (R328, R329); a landing line counts in its window, refused
ones too, and the count that reaches the window's expected bytes closes it (R325..R327): where the window is bound to a barrier, with a new
generation and an arrival there, which may complete the barrier's phase (R327, R345), whatever the state of the Sorrel domain (log 153).
Completion of WINDOW_OPEN, WINDOW_CLOSE, LANDING_LINE_ACCEPT and LANDING_LINE_REFUSED. -/
def Obligations.WindowsOpenCountAndClose : Prop :=
  (∀ (a : Agent) (w : Nat) (v : Word) (s : State), w < 256 → takesWrite s a (lndWctrl w) →
    (bit v 2 = false → bit (reg s.ctl brlAbortSt) 31 = false → (winOf s.ctl w).isOpen = false → domReleased s.ctl 17 = true →
      devFenced s.ctl = false → winExp s.ctl w ≠ 0 → winExp s.ctl w ≤ winSize s.ctl w →
      winFits s.ctl (winBase s.ctl w) (winSize s.ctl w) = true →
      Answers (.windowOpen a w v) s (fun t => winOf t.ctl w = { winOf s.ctl w with isOpen := true, rcv := 0, ref := false }
        ∧ (∀ y, y ≠ w → winOf t.ctl y = winOf s.ctl y) ∧ SameRegsBut [lndWctrl w] s t ∧ SameMemory s t)) ∧
    Answers (.windowClose a w v) s (fun t => winOf t.ctl w = { winOf s.ctl w with isOpen := false, gen := ((winOf s.ctl w).gen + 1) % 65536 }
      ∧ (∀ y, y ≠ w → winOf t.ctl y = winOf s.ctl y) ∧ SameRegsBut [lndWctrl w] s t ∧ SameMemory s t)) ∧
  (∀ (k : Nat) (x : Land) (s : State), s.ctl.lnd.land.find? (fun x => decide (x.id = k)) = some x → (winOf s.ctl x.win).isOpen = true →
    (winOf s.ctl x.win).gen = x.gen → (winBound s.ctl x.win = 0x3FF ∨ (winOf s.ctl x.win).rcv + 64 < winExp s.ctl x.win) →
    (x.out = some .ok →
      Answers (.landingLineAccept k) s (fun t => (winOf t.ctl x.win).rcv = (winOf s.ctl x.win).rcv + 64
        ∧ (winOf t.ctl x.win).ref = (winOf s.ctl x.win).ref
        ∧ ((winOf t.ctl x.win).isOpen = true ↔ (winOf s.ctl x.win).rcv + 64 < winExp s.ctl x.win)
        ∧ (∀ y ∈ t.ctl.lnd.land, y.id ≠ k) ∧ SameRegs s t ∧ SameMemory s t)) ∧
    (∀ st, x.out = some st → st ≠ .ok → domInReset s.ctl 17 = false →
      Answers (.landingLineRefused k) s (fun t => (winOf t.ctl x.win).rcv = (winOf s.ctl x.win).rcv + 64 ∧ (winOf t.ctl x.win).ref = true
        ∧ (reg t.ctl lndRefused).toNat = min (2 ^ 32 - 1) ((reg s.ctl lndRefused).toNat + 1)
        ∧ (∀ y ∈ t.ctl.lnd.land, y.id ≠ k) ∧ SameRegsBut [lndRefused] s t ∧ SameMemory s t))) ∧
  (∀ (k n : Nat) (x : Land) (s : State), s.ctl.lnd.land.find? (fun x => decide (x.id = k)) = some x → (winOf s.ctl x.win).isOpen = true →
    (winOf s.ctl x.win).gen = x.gen → winBound s.ctl x.win = n → n < 832 → winExp s.ctl x.win ≤ (winOf s.ctl x.win).rcv + 64 →
    s.ctl.srl.dead = false → (barOf s.ctl n).frozen = false → x.out = some .ok →
    Answers (.landingLineAccept k) s (fun t =>
      winOf t.ctl x.win = { winOf s.ctl x.win with
        isOpen := false, rcv := (winOf s.ctl x.win).rcv + 64, gen := ((winOf s.ctl x.win).gen + 1) % 65536 }
      ∧ ((barOf s.ctl n).cur + 1 ≠ (barOf s.ctl n).p →
        barOf t.ctl n = { barOf s.ctl n with cur := (barOf s.ctl n).cur + 1, last := 0x100 + x.win } ∧ SameRegs s t)
      ∧ ((barOf s.ctl n).cur + 1 = (barOf s.ctl n).p → (barOf s.ctl n).nxt ≠ (barOf s.ctl n).p →
        barOf t.ctl n = { barOf s.ctl n with
          ph := ((barOf s.ctl n).ph + 1) % 4, cur := (barOf s.ctl n).nxt, nxt := 0, last := 0x100 + x.win })
      ∧ (∀ m, m ≠ n → barOf t.ctl m = barOf s.ctl m) ∧ (∀ y ∈ t.ctl.lnd.land, y.id ≠ k) ∧ SameMemory s t))

/-- THY_CLR clears the slip counts and the longest-hold record of the groups it names, and no other register; of a hold in progress the cause
and the starting tick stay, and its units count anew from the next one, which is the model's choice (R165, log 117). FEN_RESEED loads the port
streams of the zones it names from FEN_SEED, and the queue and HP streams from FEN_QSEED (R253, R258). Completion of THY_CLR, FEN_RESEED_ZONE,
FEN_RESEED_QUEUES and FEN_RESEED_HP. -/
def Obligations.RecordsClearAndStreamsReseed : Prop :=
  (∀ (a : Agent) (v : Word) (s : State), hubTakes s.ctl a (rg 1 0x1F0) = true →
     Answers (.thyClr a v) s (fun t =>
       (∀ g, g < 4 → bit v g = true → reg t.ctl (thyLong g) = 0 ∧ reg t.ctl (thyLongAt g) = 0
         ∧ ∀ k, 1 ≤ k → k ≤ 12 → reg t.ctl (thySlip g k) = 0)
       ∧ (∀ g, grpOf t.ctl g = (if g < 4 ∧ bit v g = true then { grpOf s.ctl g with units := 0 } else grpOf s.ctl g))
       ∧ SameRegsBut (((List.range 4).filter (fun g => bit v g)).flatMap (fun g =>
           [thyLong g, thyLongAt g] ++ (List.range 12).map (fun k => thySlip g (k + 1)))) s t
       ∧ SameMemory s t)) ∧
  (∀ (a : Agent) (v : Word) (s : State), hubTakes s.ctl a (rg 6 0xC0) = true → fennelOn s.ctl = true →
     Answers (.fenReseedZone a v) s (fun t =>
       (∀ z, z < 16 → tabGet 1 t.ctl.lfsrPort z = (if bit v z then (reg s.ctl (fenSeed z)).toNat else tabGet 1 s.ctl.lfsrPort z))
       ∧ t.ctl.lfsrQ = s.ctl.lfsrQ ∧ t.ctl.lfsrHp = s.ctl.lfsrHp ∧ SameRegs s t ∧ SameMemory s t) ∧
     Answers (.fenReseedQueues a) s (fun t =>
       (∀ q, q < 72 → lfsrOfQ t.ctl q = (let x := reg s.ctl fenQseed ^^^ BitVec.ofNat 32 ((q + 1) * 0x00010001); if x = 0 then 1 else x.toNat))
       ∧ t.ctl.lfsrPort = s.ctl.lfsrPort ∧ t.ctl.lfsrHp = s.ctl.lfsrHp ∧ SameRegs s t ∧ SameMemory s t) ∧
     Answers (.fenReseedHp a) s (fun t => t.ctl.lfsrHp = (let x := reg s.ctl fenQseed ^^^ 0x00490049#32; if x = 0 then 1 else x.toNat)
       ∧ t.ctl.lfsrPort = s.ctl.lfsrPort ∧ t.ctl.lfsrQ = s.ctl.lfsrQ ∧ SameRegs s t ∧ SameMemory s t))

/-- A hold unit in its last pc ends, a full-rate unit falls due after 40 ticks, and a hold past its limit raises THY_HOLD_LONG once (R144, R148,
R151). Full-rate pacing is on exactly while THY_CFG asks for it and a rail is below 0.80 V, or was and both are not yet at 0.81 V (R151, R152);
a level below a rail's warning level is noted besides (R435), and without the base logic's power the pacing stays as it was. Completion of
HOLD_UNIT_END, FULL_RATE_HOLD, THY_HOLD_LONG and FULL_RATE_PACING_CHANGE. -/
def Obligations.HoldsAndPacing : Prop :=
  (∀ (g : Nat) (s : State), thymeRuns s.ctl = true → g < 4 → (grpOf s.ctl g).active = true → (grpOf s.ctl g).left = 1 →
    Answers (.holdUnitEnd g) s (fun t => grpOf t.ctl g = { grpOf s.ctl g with left := 0 }
      ∧ (∀ h, h ≠ g → grpOf t.ctl h = grpOf s.ctl h) ∧ SameRegs s t ∧ SameMemory s t)) ∧
  (∀ (g : Nat) (s : State), thymeRuns s.ctl = true → g < 4 → s.ctl.frPace = true → profileOf s.ctl g ≠ 1 →
    s.ctl.pwr.entry = none → (grpOf s.ctl g).tested = false → (grpOf s.ctl g).next1 = none → 40 ≤ (grpOf s.ctl g).sincePace + leadTicks (grpOf s.ctl g) →
    Answers (.fullRateHold g) s (fun t => grpOf t.ctl g = { grpOf s.ctl g with fullRateDue := true } ∧ ownReason t.ctl g ≠ none
      ∧ (∀ h, h ≠ g → grpOf t.ctl h = grpOf s.ctl h) ∧ SameRegs s t ∧ SameMemory s t)) ∧
  (∀ (g : Nat) (s : State), thymeRuns s.ctl = true → (grpOf s.ctl g).active = true → (grpOf s.ctl g).cause.isSome = true → (grpOf s.ctl g).warned = false →
    32 * bits (reg s.ctl thyCfg) 24 4 < s.ctl.rtc - (grpOf s.ctl g).startRtc →
    Answers (.thyHoldLong g) s (fun t => bit t.ctl.int.stat 20 = true ∧ grpOf t.ctl g = { grpOf s.ctl g with warned := true }
      ∧ (∀ h, h ≠ g → grpOf t.ctl h = grpOf s.ctl h) ∧ exec (.thyHoldLong g) t = .next t ∧ SameRegs s t ∧ SameMemory s t)) ∧
  (∀ (mvA mvB : Nat) (s : State),
     Answers (.fullRatePacingChange mvA mvB) s (fun t =>
       (baseLogicOn s.ctl = true → (t.ctl.frPace = true ↔ 2000 < bits (reg s.ctl thyCfg) 0 12 ∧ bit (reg s.ctl thyCfg) 12 = true
         ∧ (mvA < 800 ∨ mvB < 800 ∨ (s.ctl.frPace = true ∧ (mvA < 810 ∨ mvB < 810)))))
       ∧ (baseLogicOn s.ctl = false → t.ctl.frPace = s.ctl.frPace)
       ∧ (monitorsOn s.ctl = true → mvA < railWarn .vddA → 0 ∈ t.ctl.pwr.freeze)
       ∧ (monitorsOn s.ctl = true → mvB < railWarn .vddB → 1 ∈ t.ctl.pwr.freeze)
       ∧ t.ctl.pin.mvA = mvA ∧ t.ctl.pin.mvB = mvB
       ∧ (railWarn .vddA ≤ mvA → railWarn .vddB ≤ mvB → SameRegs s t) ∧ SameRegsBut [pwrSupSt, pwrEv] s t ∧ SameMemory s t))

/-- A complete write gives its range back (R176, R178). A kernel end whose earlier writes have retired is recorded: c_k_done carries its stamp,
and CHV_KEND takes the stamp and the count (R186, R187). Completion of WRITE_RANGE_RETIRE and K_END_RECORD. -/
def Obligations.WritesRetireAndKernelsEnd : Prop :=
  (∀ (id z : Nat) (r : Req) (s : State), findReq s.ctl id = some r → portCore r.port = some z → r.range = .held → r.complete = true →
     Answers (.writeRangeRetire id) s (fun t => (∀ x ∈ t.ctl.port.reqs, x.id = id → x.range = .retired) ∧ SameRegs s t ∧ SameMemory s t)) ∧
  (∀ (z n : Nat) (e : KEnd) (s : State), z < 16 → zoneFenced s.ctl z = false → (chvOf s.ctl z).ends = [e] → e.reg = some n → writesRetired s.ctl z n = true →
     drives s.ctl (.kDone z (e.seq % 256)) →
     Answers (.kEndRecord z) s (fun t => .kDone z (e.seq % 256) ∈ t.ctl.edge ∧ (chvOf t.ctl z).ends = []
       ∧ bits (reg t.ctl (chvKend z)) 24 8 = e.seq % 256
       ∧ bits (reg t.ctl (chvKend z)) 0 24 = (bits (reg s.ctl (chvKend z)) 0 24 + e.count) % 2 ^ 24
       ∧ SameMemory s t))

/-- A response credit counts on an open elastic port, up to 255; one more is discarded (R106). A response beat that is due or that a credit
admits, and a write response, is driven with its tag, status and lines (R101, R102, R106, R109). Completion of RESPONSE_CREDIT,
ELASTIC_RESPONSE_BEAT, FIXED_LAG_DELIVERY and WRITE_RESPONSE. -/
def Obligations.ResponsesAreDriven : Prop :=
  (∀ (p : Port) (s : State), fixedLag s.ctl p = false → takesCredit s.ctl p = true →
     Answers (.responseCredit p) s (fun t =>
       tabGet 0 t.ctl.port.credit (portIndex p) =
         (if tabGet 0 s.ctl.port.credit (portIndex p) < 255 then tabGet 0 s.ctl.port.credit (portIndex p) + 1
          else tabGet 0 s.ctl.port.credit (portIndex p))
       ∧ (∀ j, j ≠ portIndex p → tabGet 0 t.ctl.port.credit j = tabGet 0 s.ctl.port.credit j)
       ∧ t.ctl.port.reqs = s.ctl.port.reqs ∧ t.ctl.port.ops = s.ctl.port.ops ∧ t.ctl.edge = s.ctl.edge
       ∧ SameRegs s t ∧ SameMemory s t)) ∧
  (∀ (p : Port) (id : Nat) (r : Req) (s : State),
    findReq s.ctl id = some r → r.discard = false → r.port = p → fixedLag s.ctl p = false → r.onRs = true → r.released = true →
    r.out < r.beats → 0 < tabGet 0 s.ctl.port.credit (portIndex p) → beatReady s.ctl r r.out = true → sameTagFirst s.ctl r = false →
    rsDriven s.ctl p = false → drives s.ctl (beatEdge s.ctl r r.out) →
    Answers (.elasticResponseBeat p id) s (fun t =>
      t.ctl.edge = s.ctl.edge ++ [beatEdge s.ctl r r.out]
      ∧ tabGet 0 t.ctl.port.credit (portIndex p) = tabGet 0 s.ctl.port.credit (portIndex p) - 1
      ∧ SameRegs s t ∧ SameMemory s t)) ∧
  (∀ (p : Port) (g : Nat) (r : Req) (s : State),
    groupOf s.ctl p = some g → (grpOf s.ctl g).active = false → fixedLag s.ctl p = true →
    s.ctl.port.reqs.find? (fun r => decide (r.port = p ∧ r.out < r.beats)
        && (match r.due with | some d => decide (d + r.out ≤ (grpOf s.ctl g).tick) | none => false)) = some r →
    r.discard = false → beatReady s.ctl r r.out = true → drives s.ctl (beatEdge s.ctl r r.out) →
    Answers (.fixedLagDelivery p) s (fun t =>
      t.ctl.edge = s.ctl.edge ++ [beatEdge s.ctl r r.out] ∧ SameRegs s t ∧ SameMemory s t)) ∧
  (∀ (p : Port) (id : Nat) (r : Req) (s : State),
    findReq s.ctl id = some r → r.port = p → r.op = .write → r.onRs = false → r.answered = false → r.dataBeats ≤ r.beatsIn →
    (r.verdict ≠ .serve ∨ r.complete = true) → r.discard = false → wrDriven s.ctl p = false → sameTagFirst s.ctl r = false →
    drives s.ctl (.wr (portIndex p) r.f.tag r.writeStatus (privPort p && r.res.any (fun x => x.2.busy))) →
    Answers (.writeResponse p id) s (fun t =>
      t.ctl.edge = s.ctl.edge ++ [.wr (portIndex p) r.f.tag r.writeStatus (privPort p && r.res.any (fun x => x.2.busy))]
      ∧ SameRegs s t ∧ SameMemory s t))

/-- SRL_BAR_CFG arms a barrier, and SRL_BAR_FORCE sets its counts, completes its phase or breaks it (R339, R353, R359); a next phase whose count
is P already completes too, which is the model's reading (log 84). No other barrier changes. Completion of BARRIER_ARM, BARRIER_BREAK, FORCE_SET
and FORCE_REL. -/
def Obligations.BarrierRegistersAct : Prop :=
  ∀ (a : Agent) (n : Nat) (v : Word) (s : State), n < 832 → s.ctl.srl.dead = false →
    (takesWrite s a (rg 3 (0x8000 + 0x20 * n)) →
      Answers (.barrierArm a n v) s (fun t =>
        barOf t.ctl n = ⟨bits v 0 8, 0, 0, 0, decide (bits v 0 8 = 0), if bits v 0 8 = 0 then .disarmed else .none, 0x3FF, bit v 16, bit v 17⟩
        ∧ (∀ m, m ≠ n → barOf t.ctl m = barOf s.ctl m) ∧ SameRegs s t ∧ SameMemory s t)) ∧
    (takesWrite s a (rg 3 (0x801C + 0x20 * n)) → (barOf s.ctl n).frozen = false →
      Answers (.barrierBreak a n v) s (fun t => barOf t.ctl n = { barOf s.ctl n with frozen := true, cause := .brk }
        ∧ (∀ m, m ≠ n → barOf t.ctl m = barOf s.ctl m) ∧ SameRegs s t ∧ SameMemory s t) ∧
      (dbgView s.ctl = 2 → bit v 29 = false → bit v 30 = false →
        Answers (.forceSet a n v) s (fun t =>
          barOf t.ctl n = (if (barOf s.ctl n).p < bits v 0 8 ∨ (barOf s.ctl n).p < bits v 8 8 then barOf s.ctl n
            else if bits v 0 8 < (barOf s.ctl n).p then { barOf s.ctl n with cur := bits v 0 8, nxt := bits v 8 8 }
            else if bits v 8 8 = (barOf s.ctl n).p then
              { barOf s.ctl n with ph := ((barOf s.ctl n).ph + 2) % 4, cur := 0, nxt := 0 }
            else { barOf s.ctl n with ph := ((barOf s.ctl n).ph + 1) % 4, cur := bits v 8 8, nxt := 0 })
          ∧ (∀ m, m ≠ n → barOf t.ctl m = barOf s.ctl m) ∧ SameMemory s t
          ∧ ((barOf s.ctl n).relIrq = false ∨ bits v 0 8 ≠ (barOf s.ctl n).p → SameRegs s t))) ∧
      (dbgView s.ctl = 2 → bit v 29 = false → bit v 31 = false →
        Answers (.forceRel a n v) s (fun t =>
          barOf t.ctl n = (if (barOf s.ctl n).nxt = (barOf s.ctl n).p then
              { barOf s.ctl n with ph := ((barOf s.ctl n).ph + 2) % 4, cur := 0, nxt := 0 }
            else { barOf s.ctl n with ph := ((barOf s.ctl n).ph + 1) % 4, cur := (barOf s.ctl n).nxt, nxt := 0 })
          ∧ (∀ m, m ≠ n → barOf t.ctl m = barOf s.ctl m) ∧ SameMemory s t
          ∧ ((barOf s.ctl n).relIrq = false → SameRegs s t))))

/-- A message fills its free channel; a full core channel is not ready, and an MP write to a full channel sets its overflow bit and answers OK
(R366); Acien's acknowledge empties the channel and answers
a core at once (R367); doorbell bits are set by MP and cleared by Acien (R369). Completion of MAILBOX_MESSAGE, MBX_ACK_WRITE, MBX_DB_SET and
MBX_DB_CLR. -/
def Obligations.MessagesAndDoorbells : Prop :=
  ∀ (k : Nat) (v : Word) (s : State), k < 18 → s.ctl.srl.dead = false →
    (1 ≤ k → k ≤ 16 → mbReady s.ctl (k - 1) = true →
      Answers (.mailboxMessage true k v) s (fun t => chanOf t.ctl k = { chanOf s.ctl k with msg := v, full := true }
        ∧ (∀ j, j ≠ k → chanOf t.ctl j = chanOf s.ctl j) ∧ SameRegs s t ∧ SameMemory s t)) ∧
    (1 ≤ k → k ≤ 16 → (chanOf s.ctl k).full = true → mbReady s.ctl (k - 1) = false) ∧
    ((k = 0 ∨ k = 17) → takesWrite s .mp (rg 5 (16 * k)) →
      Answers (.mailboxMessage false k v) s (fun t =>
        chanOf t.ctl k = (if (chanOf s.ctl k).full then { chanOf s.ctl k with ovf := true }
          else { chanOf s.ctl k with msg := v, full := true })
        ∧ (s.ctl.out.vague = false → t.ctl.edge = s.ctl.edge ++ [.mpRs .ok 0])
        ∧ (∀ j, j ≠ k → chanOf t.ctl j = chanOf s.ctl j) ∧ SameRegs s t ∧ SameMemory s t)) ∧
    (takesWrite s .acien (rg 5 (16 * k + 8)) → (chanOf s.ctl k).full = true →
      Answers (.mbxAckWrite .acien k v) s (fun t =>
        chanOf t.ctl k = { chanOf s.ctl k with ack := v, full := false, ackv := !decide (1 ≤ k ∧ k ≤ 16) }
        ∧ (k = 0 → bit t.ctl.int.stat 14 = true)
        ∧ (1 ≤ k → k ≤ 16 → drives s.ctl (.mbAck (k - 1) v) → t.ctl.edge = s.ctl.edge ++ [.mbAck (k - 1) v])
        ∧ (∀ j, j ≠ k → chanOf t.ctl j = chanOf s.ctl j) ∧ SameRegs s t ∧ SameMemory s t)) ∧
    (takesWrite s .mp mbxDb →
      Answers (.mbxDbSet .mp v) s (fun t => bits (reg t.ctl mbxDb) 18 14 = bits (reg s.ctl mbxDb) 18 14 ||| bits v 18 14
        ∧ SameRegsBut [mbxDb] s t ∧ SameMemory s t)) ∧
    (takesWrite s .acien (rg 5 0x208) →
      Answers (.mbxDbClr .acien v) s (fun t =>
        bits (reg t.ctl mbxDb) 18 14 = bits (reg s.ctl mbxDb) 18 14 &&& (2 ^ 14 - 1 - bits v 18 14)
        ∧ SameRegsBut [mbxDb] s t ∧ SameMemory s t))

/-- Acien takes the message of a full channel by its command, does what it asks, and acknowledges with the return code and the value (R367,
R370, Table 9-8). DUMP writes the captured events into the error log, and then the Sorrel dump into the post-mortem region, once its lines can
be written (R360, Tables 9-6 and 9-8; in one command, log 46, and but for lines behind a lost redirect table, log
159); a dump that SRL_DUMP asks for is written likewise. MIGRATE answers BUSY while a
migration of the zone is active and REFUSED without a spare (log 43). SCRUB_REGION scrubs the stored lines of the region, each as the
arbiter of its slice grants it (R111, R389), and then answers with the lines repaired; that it takes one line at a command, the lowest address
first, while another channel's SCRUB_REGION waits, is the model's choice (log 146), and so are the number and the age of the access that it
presents (log 105) and the build number that PING answers (log 10). LOG_READ asks for
its line and answers with what it reads, zeros for a line that is not OK (log 67). Completion of PING, DUMP, MIGRATE, SCRUB_REGION, LOG_READ,
UNKNOWN_COMMAND, SRL_DUMP_GO and SRL_DUMP_DONE. -/
def Obligations.AcienAnswersItsCommands : Prop :=
  ∀ (k : Nat) (s : State),
    (takesMsg s.ctl k (fun m => decide (m = 0x01)) = true →
      Answers (.ping k) s (fun t => (chanOf t.ctl k).full = false
        ∧ (chanOf t.ctl k).ack = BitVec.ofNat 32 (Config.firmwareBuild.toNat % 2 ^ 24) ∧ SameRegs s t ∧ SameMemory s t)) ∧
    (takesMsg s.ctl k (fun m => decide (m = 0x02)) = true →
      (s.ctl.prt.cap = [] → s.ctl.prt.acien = none → (∀ w, ownAvail s dumpTas ≠ .wait w) →
        Answers (.dump k) s (fun t => (chanOf t.ctl k).full = false ∧ (chanOf t.ctl k).ack = 0 ∧ dumped 1 s t)) ∧
      (∀ w, s.ctl.prt.cap = [] → s.ctl.prt.acien = none → ownAvail s dumpTas = .wait w →
        Answers (.dump k) s (fun t => chanOf t.ctl k = chanOf s.ctl k ∧ SameRegs s t ∧ SameMemory s t)) ∧
      (s.ctl.prt.cap ≠ [] ∨ s.ctl.prt.acien ≠ none → exec (.dump k) s = exec .logDrain s ∧
        Answers (.dump k) s (fun t => chanOf t.ctl k = chanOf s.ctl k ∧ SameRegsBut [prtLogWp] s t ∧ SameMemory s t))) ∧
    (takesMsg s.ctl k (fun m => decide (m = 0x10)) = true →
      Answers (.migrate k) s (fun t => (chanOf t.ctl k).full = false
        ∧ ((migOf s.ctl (msgArg s.ctl k % 128 / 8)).active = true → (chanOf t.ctl k).ack = BitVec.ofNat 32 (3 <<< 24))
        ∧ ((migOf s.ctl (msgArg s.ctl k % 128 / 8)).active = false → hasSpare s.ctl (msgArg s.ctl k % 128 / 8) = false →
          (chanOf t.ctl k).ack = BitVec.ofNat 32 (4 <<< 24))
        ∧ ((migOf s.ctl (msgArg s.ctl k % 128 / 8)).active = false → hasSpare s.ctl (msgArg s.ctl k % 128 / 8) = true →
          (chanOf t.ctl k).ack = 0 ∧ migOf t.ctl (msgArg s.ctl k % 128 / 8) =
            ⟨true, false, msgArg s.ctl k % 128, 9 * (msgArg s.ctl k % 128 / 8) + 8, 0, none, none, none⟩) ∧ SameMemory s t)) ∧
    (takesMsg s.ctl k (fun m => decide (m = 0x11)) = true →
      (regionPool s.ctl (msgArg s.ctl k % 8192) = 2 →
        Answers (.scrubRegion k) s (fun t => (chanOf t.ctl k).full = false ∧ (chanOf t.ctl k).ack = BitVec.ofNat 32 (2 <<< 24)
          ∧ SameRegs s t ∧ SameMemory s t)) ∧
      (∀ x v, v = s.onCtl toSlices → regionPool s.ctl (msgArg s.ctl k % 8192) ≠ 2 →
        x = s.ctl.prt.region.getD ⟨k, msgArg s.ctl k % 8192, 0, 0, none⟩ →
        (x.chan ≠ k → Answers (.scrubRegion k) s (fun t => t = s)) ∧
        (x.chan = k → regionNext v x = none →
          Answers (.scrubRegion k) s (fun t => (chanOf t.ctl k).full = false ∧ (chanOf t.ctl k).ack = BitVec.ofNat 32 (x.count % 2 ^ 24)
            ∧ t.ctl.prt.region = none ∧ SameRegs s t ∧ SameMemory s t)) ∧
        (∀ ta l a u, x.chan = k → regionNext v x = some (ta, l) → a = askedFor v.ctl x.asked ta (scrubExtra ta l [] v) →
          u = v.onCtl (fun c => setRegion (some { x with asked := some a }) (nextSerial c)) →
          (granted u (redirect s.ctl l.s l.x) a →
            Answers (.scrubRegion k) s (fun t => t.store = (scrubLine ta l [] v).1.store
              ∧ (∀ i, isParity s.ctl ta = false → i < 576 → tabFind s.store.upsets (keyOf s.ctl l) = some [i] →
                s.store.isPoison (keyOf s.ctl l) = false → s.store.isZero (keyOf s.ctl l) = false →
                allZero (s.store.data (keyOf s.ctl l)) = false →
                tabFind t.store.upsets (keyOf s.ctl l) = none ∧ SameMemory s t
                ∧ ((t.ctl.prt.region = some { x with next := ta + 1, asked := none, count := satAdd 24 x.count 1 }
                    ∧ chanOf t.ctl k = chanOf s.ctl k)
                  ∨ (t.ctl.prt.region = none ∧ (chanOf t.ctl k).full = false
                    ∧ (chanOf t.ctl k).ack = BitVec.ofNat 32 (satAdd 24 x.count 1 % 2 ^ 24)))))) ∧
          ((∃ w, backAvail u a = .wait w) ∨ backgroundFirst u (redirect s.ctl l.s l.x) a = false →
            Answers (.scrubRegion k) s (fun t => chanOf t.ctl k = chanOf s.ctl k ∧ t.ctl.prt.region = some { x with asked := some a }
              ∧ SameRegs s t ∧ SameMemory s t))))) ∧
    (∀ (a : Nat), takesMsg s.ctl k (fun m => decide (m = 0x12)) = true → a = 0xE10000000 + 16 * (msgArg s.ctl k % 65536) →
      (s.ctl.prt.acien = none → reachesTa s.ctl false (a - a % 64) →
        Answers (.logRead k) s (fun t => asks t .acien (canonTa (remapNow s.ctl) (a - a % 64)) .read
          ∧ t.ctl.prt.acien = some ⟨.read a, none⟩ ∧ SameRegs s t ∧ SameMemory s t)) ∧
      (∀ res, s.ctl.prt.acien = some ⟨.read a, some res⟩ →
        Answers (.logRead k) s (fun t => (chanOf t.ctl k).full = false ∧ t.ctl.prt.acien = none
          ∧ (chanOf t.ctl k).ack = BitVec.ofNat 32 (leNat ((res.data.drop (a % 64)).take 3)) ∧ SameRegs s t ∧ SameMemory s t))) ∧
    (takesMsg s.ctl k (fun m => !decide (m ∈ [0x01, 0x02, 0x10, 0x11, 0x12])) = true →
      Answers (.unknownCommand k) s (fun t => (chanOf t.ctl k).full = false ∧ (chanOf t.ctl k).ack = BitVec.ofNat 32 (1 <<< 24)
        ∧ SameRegs s t ∧ SameMemory s t)) ∧
    (∀ (a : Agent) (v : Word), takesWrite s a (rg 3 0x08) → s.ctl.srl.dead = false → s.ctl.srl.dump = none →
      Answers (.srlDumpGo a v) s (fun t => t.ctl.srl.dump = some 1 ∧ SameRegs s t ∧ SameMemory s t)) ∧
    (∀ r, s.ctl.srl.dump = some r → baseLogicOn s.ctl = true → (∀ w, ownAvail s dumpTas ≠ .wait w) →
      Answers .srlDumpDone s (fun t => t.ctl.srl.dump = none ∧ dumped r s t)) ∧
    (∀ r w, s.ctl.srl.dump = some r → ownAvail s dumpTas = .wait w →
      Answers .srlDumpDone s (fun t => t.ctl.srl.dump = some r ∧ SameRegs s t ∧ SameMemory s t))

/-- The scrubber presents the read of the next line of its order, when it is due in the period that the slice's lines are spread over, and
once the arbiter of its slice grants it corrects a flipped bit, which it counts in PRT_CE (R111, R376, R388, R389; log 105); a pass that has
not ended in its time sets PRT_SCRUB_ST.behind (R391). Completion of SCRUB_ACCESS and SCRUB_BEHIND. -/
def Obligations.ScrubbingCorrectsLines : Prop :=
  (∀ (p ls b r i : Nat) (rest : List Nat) (ta : Nat) (a : Asked) (s v : State), v = s.onCtl toSlices →
    logicalOf s.ctl p = some ls → s.ctl.dev.run = .running →
    scrubDue s.ctl p ((bankCount s.ctl - rest.length) * 16384 + r) = true →
    scrubNext v p (if (scrubOf s.ctl p).on then (scrubOf s.ctl p).left else List.range (bankCount s.ctl)) (scrubOf s.ctl p).r
      = some (b, r, rest) →
    taOf s.ctl ⟨ls, b, r⟩ = some ta → a = askedFor v.ctl (scrubOf s.ctl p).asked ta (scrubExtra ta ⟨ls, b, r⟩ [] v) →
    granted (keepUpset ⟨ls, b, r⟩ [] (v.onCtl (fun c => setScrub p ⟨true, rest, r, some a⟩ (nextSerial c)))) p a →
    banksOn s.ctl ⟨ls, b, r⟩ → redirect s.ctl ls (Loc.x ⟨ls, b, r⟩) = p → isParity s.ctl ta = false → i < 576 →
    tabFind s.store.upsets (physKey p b r) = some [i] → s.store.isPoison (physKey p b r) = false →
    s.store.isZero (physKey p b r) = false → allZero (s.store.data (physKey p b r)) = false →
    Answers (.scrubAccess p []) s (fun t => tabFind t.store.upsets (physKey p b r) = none
      ∧ (reg t.ctl prtCe).toNat = min (2 ^ 32 - 1) ((reg s.ctl prtCe).toNat + 1)
      ∧ scrubOf t.ctl p = ⟨true, rest, r + 1, none⟩ ∧ SameMemory s t ∧ SameRegsBut [prtCe, prtCapLost, prtEv] s t)) ∧
  (∀ (s : State), baseLogicOn s.ctl = true → s.ctl.prt.passStart + bits (reg s.ctl prtScrubCfg) 0 8 * 3600000000 ≤ s.ctl.rtc →
    Answers .scrubBehind s (fun t => bit (reg t.ctl prtScrubSt) 0 = true ∧ SameRegsBut [prtScrubSt] s t ∧ SameMemory s t))

/-- A lane whose CRC errors reach the threshold in a window fails and a spare replaces it (R392, R393); a bundle retrains in its period
(R394), or in full, and then without its errors but for the lanes that do not train; more than two failed lanes degrade it (R395, R396). That
the end of a full retrain empties the counts of CRC errors and starts a window is the model's choice (log 116). Completion of LANE_CRC_ERROR,
LANE_RETRAIN, FULL_RETRAIN and FULL_RETRAIN_DONE. -/
def Obligations.LanesFailAndRetrain : Prop :=
  ∀ (p b : Nat) (x : Lane) (s : State), p < 144 → b < s.ctl.part.tiers → x = laneOf s.ctl p b → baseLogicOn s.ctl = true →
    (∀ lane, lane < 18 → s.ctl.rtc < x.winStart + 1000 * bits (reg s.ctl prtLaneCfg) 8 8 →
      Answers (.laneCrcError p b lane) s (fun t => tabGet 0 (laneOf t.ctl p b).crc lane = tabGet 0 x.crc lane + 1
        ∧ (tabGet 0 x.crc lane + 1 < bits (reg s.ctl prtLaneCfg) 0 8 → (laneOf t.ctl p b).failed = x.failed)
        ∧ (bits (reg s.ctl prtLaneCfg) 0 8 ≤ tabGet 0 x.crc lane + 1 → ¬ lane ∈ x.failed →
          (laneOf t.ctl p b).failed = x.failed ++ [lane]
          ∧ (lane < 16 → (laneOf t.ctl p b).spares = x.spares ++ x.freeSpare.toList)
          ∧ (16 ≤ lane → ¬ lane ∈ x.spares → (laneOf t.ctl p b).spares = x.spares)
          ∧ (laneOf t.ctl p b).degraded = (x.degraded || decide (2 ≤ x.failed.length)) ∧ bit (reg t.ctl prtEv) 2 = true)
        ∧ SameRegsBut [prtEv, prtCapLost] s t ∧ SameMemory s t)) ∧
    (bits (reg s.ctl prtLaneCfg) 20 8 ≠ 0 → x.freeSpare.isSome = true → x.retrain = false →
      x.trained + 1000000 * bits (reg s.ctl prtLaneCfg) 20 8 ≤ s.ctl.rtc →
      Answers (.laneRetrain p b) s (fun t => laneOf t.ctl p b = { x with trained := s.ctl.rtc } ∧ SameRegs s t ∧ SameMemory s t)) ∧
    (x.retrain = false →
      Answers (.fullRetrain p b true) s (fun t => laneOf t.ctl p b = { x with retrain := true, trained := s.ctl.rtc }
        ∧ bit (reg t.ctl prtEv) 3 = true ∧ SameRegsBut [prtEv, prtCapLost] s t ∧ SameMemory s t)) ∧
    (x.retrain = true →
      Answers (.fullRetrainDone p b []) s (fun t =>
        laneOf t.ctl p b = { x with retrain := false, trained := s.ctl.rtc, crc := [], winStart := s.ctl.rtc }
        ∧ SameRegs s t ∧ SameMemory s t) ∧
      ∀ l, l < 18 → ¬ l ∈ x.failed → Answers (.fullRetrainDone p b [l]) s (fun t =>
        (laneOf t.ctl p b).retrain = false ∧ (laneOf t.ctl p b).failed = x.failed ++ [l]
        ∧ (laneOf t.ctl p b).degraded = (x.degraded || decide (2 ≤ x.failed.length))
        ∧ SameRegsBut [prtEv, prtCapLost] s t ∧ SameMemory s t))

/-- A migration request is taken where the zone has a spare and none is active, and refused else (R397, R398); the copy reads the line at the
watermark once the arbiter of the slice grants it, and writes it into the spare once the arbiter of the spare grants that, or reads it again
where a clear has changed it meanwhile (R73, R400, R401, R402; log 105); the swap waits for the rebuild of a pending table that cannot be read
(R387), makes the spare the slice and retires the old one (R406, R407). Completion of MIGRATION_START, AUTO_MIGRATE, MIGRATION_COPY_LINE and
MIGRATION_SWAP. -/
def Obligations.MigrationsCopyAndSwap : Prop :=
  (∀ (a : Agent) (v : Word) (x : Nat) (s : State), hubTakes s.ctl a (rg 10 0) = true → x = bits v 0 7 →
    ((migOf s.ctl (x / 8)).active = false → hasSpare s.ctl (x / 8) = true →
      Answers (.migrationStart a v) s (fun t => migOf t.ctl (x / 8) = ⟨true, false, x, 9 * (x / 8) + 8, 0, none, none, none⟩
        ∧ (∀ z, z ≠ x / 8 → migOf t.ctl z = migOf s.ctl z) ∧ SameRegsBut [prtCapLost, prtEv] s t ∧ SameMemory s t)) ∧
    (((migOf s.ctl (x / 8)).active = true ∨ hasSpare s.ctl (x / 8) = false) →
      Answers (.migrationStart a v) s (fun t => bit (reg t.ctl (migSt (x / 8))) 29 = true ∧ bit t.ctl.int.stat 7 = true
        ∧ (∀ z, migOf t.ctl z = migOf s.ctl z) ∧ SameRegsBut [migSt (x / 8), prtCapLost, prtEv] s t ∧ SameMemory s t))) ∧
  (∀ (x : Nat) (s : State), x < 128 → acienRuns s.ctl = true → s.ctl.dev.hub = .idle → migWanted s.ctl x = true → s.ctl.pwr.entry = none →
    (migOf s.ctl (x / 8)).active = false → hasSpare s.ctl (x / 8) = true →
    Answers (.autoMigrate x) s (fun t => migOf t.ctl (x / 8) = ⟨true, false, x, 9 * (x / 8) + 8, 0, none, none, none⟩
      ∧ SameRegsBut [prtCapLost, prtEv] s t ∧ SameMemory s t)) ∧
  (∀ (z b r ta : Nat) (m : Mig) (a : Asked) (s v : State), v = s.onCtl toSlices →
    migOf s.ctl z = m → m.active = true → m.built = true → s.ctl.dev.run = .running →
    s.ctl.prt.badMig.contains z = false → s.ctl.prt.badCommitted.contains m.slice = false → m.wm = 16384 * b + r → r < 16383 →
    b < bankCount s.ctl → z = m.slice / 8 →
    (bankOf s.ctl (committed s.ctl m.slice) b).st = .on → (bankOf s.ctl m.spare b).st = .on → taOf s.ctl ⟨m.slice, b, r⟩ = some ta →
    m.got = none → a = askedFor v.ctl m.asked ta (copyExtra ta ⟨m.slice, b, r⟩ [] v) →
    granted (keepUpset ⟨m.slice, b, r⟩ [] (v.onCtl (fun c => setMig z { m with asked := some a } (nextSerial c)))) (committed s.ctl m.slice) a →
    isParity s.ctl ta = false → intact s ⟨m.slice, b, r⟩ →
    Answers (.migrationCopyLine z []) s (fun t => SameRegsBut [prtCapLost, prtEv] s t
      ∧ ((∃ y p, migOf t.ctl z = { m with asked := none, got := some y, put := some p } ∧ p.ta = ta ∧ y.1.st = .ok
            ∧ y.1.data = lineAt s ⟨m.slice, b, r⟩ ∧ SameMemory s t)
        ∨ (migOf t.ctl z = { m with wm := m.wm + 1, asked := none, got := none, put := none }
          ∧ putReady s.ctl m b = true ∧ t.store.data (physKey m.spare b r) = lineAt s ⟨m.slice, b, r⟩
          ∧ lineMarks t (physKey m.spare b r) = (allZero (lineAt s ⟨m.slice, b, r⟩), false)
          ∧ SameMemoryBut [physKey m.spare b r] s t)))) ∧
  (∀ (z b r ta : Nat) (m : Mig) (y : LineRes) (lost : Bool) (a : Asked) (s v : State), v = s.onCtl toSlices →
    migOf s.ctl z = m → m.active = true → m.built = true →
    s.ctl.dev.run = .running → s.ctl.prt.badMig.contains z = false → s.ctl.prt.badCommitted.contains m.slice = false →
    m.wm = 16384 * b + r → r < 16383 → b < bankCount s.ctl → z = m.slice / 8 → (bankOf s.ctl (committed s.ctl m.slice) b).st = .on →
    taOf s.ctl ⟨m.slice, b, r⟩ = some ta → m.got = some (y, lost) → m.put = some a → y.data.length = 64 → s.store.blur = none →
    (copyStale ⟨m.slice, b, r⟩ y lost v = true →
      Answers (.migrationCopyLine z []) s (fun t => migOf t.ctl z = { m with asked := none, got := none, put := none } ∧ t.store = s.store
        ∧ SameRegs s t)) ∧
    (copyStale ⟨m.slice, b, r⟩ y lost v = false → putReady s.ctl m b = true →
    (backgroundFirst v m.spare a = true →
      Answers (.migrationCopyLine z []) s (fun t => migOf t.ctl z = { m with wm := m.wm + 1, asked := none, got := none, put := none }
        ∧ (y.st = .ok → t.store.data (physKey m.spare b r) = (if y.zero then zeroLine else y.data)
          ∧ lineMarks t (physKey m.spare b r) = (y.zero || allZero y.data, false))
        ∧ (y.st ≠ .ok → lineMarks t (physKey m.spare b r) = (false, true))
        ∧ SameMemoryBut [physKey m.spare b r] s t ∧ SameRegs s t)) ∧
    (backgroundFirst v m.spare a = false → Answers (.migrationCopyLine z []) s (fun t => t = v)))) ∧
  (∀ (z : Nat) (m : Mig) (s : State), migOf s.ctl z = m → m.built = true → s.ctl.dev.run = .running → m.wm = 16384 * bankCount s.ctl →
    s.ctl.prt.pendingBad.contains z = true →
    Answers (.migrationSwap z) s (fun t => t.ctl.prt.pendingBad.contains z = false ∧ migOf t.ctl z = m
      ∧ SameRegsBut [prtCapLost, prtEv] s t ∧ SameMemory s t)) ∧
  (∀ (z p : Nat) (m : Mig) (s : State), migOf s.ctl z = m → m.built = true → s.ctl.dev.run = .running →
    m.wm = 16384 * bankCount s.ctl → s.ctl.prt.pendingBad.contains z = false → p = committed s.ctl m.slice → s.ctl.part.tiers ≤ 3 →
    Answers (.migrationSwap z) s (fun t => committed t.ctl m.slice = m.spare ∧ p ∈ t.ctl.prt.retired
      ∧ migOf t.ctl z = { m with active := false, built := false } ∧ bit t.ctl.int.stat 6 = true
      ∧ (∀ k, k / 16384 / 48 ≠ p → lineMarks t k = lineMarks s k) ∧ (∀ a, a / 64 / 16384 / 48 ≠ p → byteAt t a = byteAt s a)
      ∧ SameRegsBut [prtCapLost, prtEv] s t))

/-- A read of PRT_CAP[3] returns the oldest captured entry, which Acien's read removes (R409); Acien writes the oldest entry into the error log
in the post-mortem region and PRT_LOG_WP moves on (R409, R410). Completion of PRT_CAP_POP and LOG_DRAIN. -/
def Obligations.CapturedEventsReachTheLog : Prop :=
  (∀ (a : Agent) (s : State), hubTakes s.ctl a (rg 11 0x6C) = true →
    Answers (.prtCapPop a) s (fun t => t.ctl.prt.cap = (if a = .acien then s.ctl.prt.cap.drop 1 else s.ctl.prt.cap)
      ∧ (a = .mp → s.ctl.out.vague = false → t.ctl.edge = s.ctl.edge ++ [.mpRs .ok (capWord s.ctl 3)]) ∧ SameRegs s t ∧ SameMemory s t)) ∧
  (∀ (e : Cap) (rest : List Cap) (n : Nat) (s : State), acienRuns s.ctl = true → sorrelStill s.ctl = false → s.ctl.dev.hub = .idle → s.ctl.prt.cap = e :: rest →
    n = (reg s.ctl prtLogWp).toNat →
    (s.ctl.prt.acien = none → s.ctl.prt.logLast = none → reachesTa s.ctl true (logLine n e).1 →
      Answers .logDrain s (fun t =>
        asks t .acien (canonTa (remapNow s.ctl) (logLine n e).1) (.write (logLine n e).2.1 (logLine n e).2.2 false)
        ∧ t.ctl.prt.acien = some ⟨.log false e, none⟩ ∧ t.ctl.prt.cap = s.ctl.prt.cap ∧ SameRegs s t ∧ SameMemory s t)) ∧
    (∀ again res, s.ctl.prt.acien = some ⟨.log again e, some res⟩ →
      Answers .logDrain s (fun t => t.ctl.prt.cap = rest ∧ t.ctl.prt.logLast = some e ∧ t.ctl.prt.acien = none
        ∧ (reg t.ctl prtLogWp).toNat = (if again then n else (n + 1) % 2 ^ 32)
        ∧ SameRegsBut [prtLogWp] s t ∧ SameMemory s t)))

/-- A write of policies, RUN and IDLE change their registers and bring the banks to the states that their policies give them then, or order
them anew where accesses hold a bank or a wake takes its time (R415, R418, R419, R420; log 130); an idle bank goes to RET with its lines, and
a wanted bank wakes from RET, a LOST one with every zero bit set (R415, R416, R424); PWR_ISO_RELEASE ends the latching of the outputs, and the
banks whose policy is ON are ordered there (R433). Completion of PWR_GRP_WRITE, RUN, IDLE, BANK_IDLE_RET, BANK_WAKE, BANK_WAKE_DONE and
PWR_ISO_RELEASE. -/
def Obligations.BanksFollowTheirPolicies : Prop :=
  (∀ (a : Agent) (z : Nat) (v : Word) (s : State), z < 16 → hubTakes s.ctl a (pwrGrp z) = true →
    Answers (.pwrGrpWrite a z v) s (fun t => reg t.ctl (pwrGrp z) = (grpAfter s.ctl z v).1
      ∧ ((grpAfter s.ctl z v).2 = true → bit (reg t.ctl pwrEv) 3 = true ∧ bit t.ctl.int.stat 11 = true)
      ∧ (s.ctl.part.tiers ≤ 3 → followPolicies (setReg (pwrGrp z) (grpAfter s.ctl z v).1 s.ctl) (fun k => ∃ x near,
          groupOfBank s.ctl k.1 k.2 = some (z, x, near)
          ∧ policyOf (setReg (pwrGrp z) (grpAfter s.ctl z v).1 s.ctl) z x near ≠ policyOf s.ctl z x near) t)
      ∧ (banksStay (setReg (pwrGrp z) (grpAfter s.ctl z v).1 s.ctl) → SameMemory s t) ∧ SameRegsBut [pwrGrp z, pwrEv] s t)) ∧
  (∀ (a : Agent) (v : Word) (s : State), hubTakes s.ctl a pwrCtrl = true → s.ctl.dev.run = .running → s.ctl.pwr.entry = none →
    (∀ c, c = afterReq s.ctl (setBits v 0 2 0) false →
      Answers (.run a v) s (fun t => t.ctl.pwr.idleState = false ∧ bits (reg t.ctl pwrCtrl) 16 16 = bits v 16 16
        ∧ (s.ctl.part.tiers ≤ 3 → followPolicies c (fun k => bankPolicy c k.1 k.2 = 0) t)
        ∧ (banksStay c → SameMemory s t) ∧ SameRegsBut [pwrCtrl] s t)) ∧
    (∀ c, c = afterReq s.ctl (setBits v 0 2 1) true →
      Answers (.idle a v) s (fun t => t.ctl.pwr.idleState = true ∧ bits (reg t.ctl pwrCtrl) 16 16 = bits v 16 16
        ∧ (s.ctl.part.tiers ≤ 3 → followPolicies c (fun k => idleBank c k.1 = true ∨ bankPolicy c k.1 k.2 = 0) t)
        ∧ (banksStay c → SameMemory s t) ∧ SameRegsBut [pwrCtrl] s t))) ∧
  (∀ (p b : Nat) (s : State), b < bankCount s.ctl → s.ctl.part.tiers ≤ 3 → s.ctl.dev.run = .running → twin s.ctl p = none →
    ((bankOf s.ctl p b).st = .on → (bankOf s.ctl p b).forCopy = false → idlesToRet s.ctl p b = true →
      (bankOf s.ctl p b).last + bits (reg s.ctl pwrIdleUs) 0 16 ≤ s.ctl.rtc →
      Answers (.bankIdleRet p b) s (fun t => (bankOf t.ctl p b).st = .ret ∧ SameRegs s t ∧ SameMemory s t)) ∧
    ((bankOf s.ctl p b).st = .ret → ((bankOf s.ctl p b).want || movesOn s.ctl p b) = true → s.ctl.pwr.freeze = [] →
      (∀ e, s.ctl.pwr.entry = some e → e.step ≤ 4) → (wakeQual s.ctl p b = 1 → paceAllows s.ctl 1 = true) →
      Answers (.bankWake p b) s (fun t => (bankOf t.ctl p b).st = .waking ∧ SameRegs s t ∧ SameMemory s t)) ∧
    ((bankOf s.ctl p b).st = .waking → s.ctl.pwr.moves = [] →
      Answers (.bankWakeDone p b) s (fun t => (bankOf t.ctl p b).st = .on ∧ (bankOf t.ctl p b).lost = false
        ∧ ((bankOf s.ctl p b).lost = false → SameRegs s t ∧ SameMemory s t)
        ∧ ((bankOf s.ctl p b).lost = true → bit (reg t.ctl pwrSt) 30 = true ∧ bit t.ctl.int.stat 10 = true
          ∧ (∀ r, r < 16384 → lineMarks t (physKey p b r) = (true, false)) ∧ SameRegsBut [pwrSt, pwrEv] s t)))) ∧
  (∀ (a : Agent) (v : Word) (s : State), hubTakes s.ctl a (rg 12 0x08) = true → bit (reg s.ctl pwrSt) 31 = true →
    s.ctl.dev.run = .running →
    Answers (.pwrIsoRelease a v) s (fun t => bit (reg t.ctl pwrSt) 31 = false ∧ t.ctl.out.aonWake = false ∧ t.ctl.pwr.latch = none
      ∧ (s.ctl.part.tiers ≤ 3 → followPolicies s.ctl (fun k => policyState s.ctl k = some .on) t)
      ∧ (banksStay s.ctl → SameMemory s t) ∧ SameRegsBut [pwrSt, lndLate, lndOor] s t))

/-- A SLEEP request begins at step 1 and empties the write-combining buffers, and a beat that waits at a link is its first wake event. Each of
steps 1 to 4 that is done leads to the next one, step 3 with the image of what it saves and its CRC-32, step 4 with every bank that was ON in
RET, unless a wake event waits, which abandons the entry there and brings the banks back; a migration up to step 3, a port past the time limit
in step 1, a unit that is not quiet in step 2 and Acien's mailbox in step 3 refuse it, and a step that is not done waits (R425..R429, Table
11-2). Step 5 is SLEEP: outputs latched, the keep-set in RET, every other bank OFF (R422). The alarm and the exit bring the device back
(R430..R432): with all that step 3 saved (log 110) where the save area's CRC-32 is the one that the island kept and no bank is LOST, else
through a full load (log 156); each exit counts one SLEEP (log 47). What an isolated core presents is no wake event (R473). Completion of
SLEEP, SLEEP_STEP_END, SLEEP_DRAIN_TIMEOUT, SLEEP_WAKE_EVENT, RTC_ALARM and SLEEP_EXIT_COMPLETE. -/
def Obligations.SleepIsEnteredAndLeft : Prop :=
  (∀ (a : Agent) (v : Word) (s : State), hubTakes s.ctl a pwrCtrl = true → s.ctl.dev.run = .running → s.ctl.pwr.entry = none →
    (migZone s.ctl = none → (∀ b ∈ s.ctl.lnd.inbox, b.link < 12) →
      Answers (.sleep a v) s (fun t =>
        t.ctl.pwr.entry = some ⟨1, s.ctl.rtc, s.ctl.lnd.inbox.head?.map (fun b => (0, 100 + b.link)), []⟩ ∧ (∀ z, z < 16 → (chvOf t.ctl z).wc = [])
        ∧ SameRegsBut [pwrCtrl] s t ∧ SameMemory s t)) ∧
    (∀ z, migZone s.ctl = some z →
      Answers (.sleep a v) s (fun t => t.ctl.pwr.entry = none ∧ bit (reg t.ctl pwrEv) 0 = true ∧ bit t.ctl.int.stat 9 = true
        ∧ ((∀ y, y < 16 → (chvOf s.ctl y).sy = []) → (reg t.ctl pwrSleepLast).toNat = 2 ^ 28 + 2 ^ 27 + z
          ∧ SameRegsBut [pwrCtrl, pwrSleepCnt, pwrSleepLast, pwrEv, lndLate, lndOor] s t)
        ∧ SameMemory s t))) ∧
  (∀ (e : Entry) (s : State), s.ctl.pwr.entry = some e → e.banks = [] →
    (∀ z, 1 ≤ e.step → e.step ≤ 3 → migZone s.ctl = some z →
      Answers .sleepStepEnd s (fun t => entryEnded 0 e.step 2 z s t ∧ SameMemory s t)) ∧
    (e.step = 1 → migZone s.ctl = none →
      (portsDrained s.ctl = true → Answers .sleepStepEnd s (fun t => SameMemory s t
        ∧ (e.wake = none → t.ctl.pwr.entry = some { e with step := 2 } ∧ SameRegs s t)
        ∧ (∀ w, e.wake = some w → entryEnded 1 1 w.1 w.2 s t))) ∧
      (portsDrained s.ctl = false → Answers .sleepStepEnd s (fun t => t = s))) ∧
    (e.step = 2 → migZone s.ctl = none →
      (∀ x, quiesceRefuser s.ctl = some x → Answers .sleepStepEnd s (fun t => entryEnded 0 2 x.1 x.2 s t ∧ SameMemory s t)) ∧
      (quiesceRefuser s.ctl = none → s.ctl.port.ops = [] → s.ctl.port.parity = [] → Answers .sleepStepEnd s (fun t => SameMemory s t
        ∧ (e.wake = none → t.ctl.pwr.entry = some { e with step := 3 } ∧ SameRegs s t)
        ∧ (∀ w, e.wake = some w → entryEnded 1 2 w.1 w.2 s t))) ∧
      (quiesceRefuser s.ctl = none → s.ctl.port.ops ≠ [] ∨ s.ctl.port.parity ≠ [] → Answers .sleepStepEnd s (fun t => t = s))) ∧
    (e.step = 3 → migZone s.ctl = none →
      (acienBusy s.ctl = true → Answers .sleepStepEnd s (fun t => entryEnded 0 3 3 1 s t ∧ SameMemory s t)) ∧
      (acienBusy s.ctl = false → s.ctl.port.ops = [] → s.ctl.port.parity = [] → saveReady s.ctl = true →
        Answers .sleepStepEnd s (fun t =>
          (e.wake = none → t.ctl.pwr.entry = some { e with step := 4 } ∧ imageSaved s t ∧ SameRegs s t)
          ∧ (∀ w, e.wake = some w → entryEnded 1 3 w.1 w.2 s t))) ∧
      (acienBusy s.ctl = false → s.ctl.port.ops = [] → s.ctl.port.parity = [] → saveReady s.ctl = false →
        Answers .sleepStepEnd s (fun t => t.ctl.pwr.entry = some e ∧ t.ctl.pwr.saved = s.ctl.pwr.saved
          ∧ (∀ l ∈ saveLocs, (bankOf s.ctl (redirect s.ctl l.s l.x) l.b).st = .ret →
            (bankOf t.ctl (redirect s.ctl l.s l.x) l.b).want = true) ∧ SameRegs s t ∧ SameMemory s t))) ∧
    (e.step = 4 → Answers .sleepStepEnd s (fun t =>
      (∀ k ∈ usedBanks s.ctl, (bankOf t.ctl k.1 k.2).st = if k ∈ onBanks s.ctl then .ret else (bankOf s.ctl k.1 k.2).st)
      ∧ (e.wake = none → t.ctl.pwr.entry = some { e with
          step := 5, banks := (onBanks s.ctl).map (fun k => (bankKey k.1 k.2, bankOf s.ctl k.1 k.2)) }
        ∧ t.ctl.pwr.saved = s.ctl.pwr.saved ∧ SameRegs s t ∧ SameMemory s t)
      ∧ (∀ w, e.wake = some w → s.ctl.pwr.moves = [] → entryEnded 1 4 w.1 w.2 s t ∧ SameMemory s t
        ∧ (s.ctl.part.tiers ≤ 3 → ∀ k ∈ onBanks s.ctl, ordered t.ctl k.1 k.2 .on)))) ∧
    (∀ i, e.step = 1 → drainPort s.ctl = some i → e.since + bits (reg s.ctl pwrSleepCfg) 0 12 ≤ s.ctl.rtc →
      Answers .sleepDrainTimeout s (fun t => entryEnded 0 1 0 i s t ∧ SameMemory s t))) ∧
  (∀ (e : Entry) (s : State), s.ctl.pwr.entry = some e →
    (e.step = 5 → s.ctl.part.tiers ≤ 3 → Answers .sleepStepEnd s (fun t => t.ctl.dev.run = .asleep ∧ t.ctl.pwr.entry = none ∧ t.ctl.out.aonSleep = true
      ∧ bit (reg t.ctl pwrSt) 31 = true ∧ t.ctl.pwr.vretLp = true ∧ t.ctl.pwr.moves = [] ∧ t.ctl.pwr.latch.isSome = true
      ∧ t.ctl.pwr.saved = s.ctl.pwr.saved ∧ t.ctl.pwr.saveCrc = s.ctl.pwr.saveCrc
      ∧ (∀ k ∈ groupBanks s.ctl, (bankOf t.ctl k.1 k.2).st
        = if keptBank s.ctl k = true ∧ (bankOf s.ctl k.1 k.2).st ≠ .off then .ret else .off)
      ∧ (∀ k ∈ groupBanks s.ctl, keptBank s.ctl k = false → (bankOf s.ctl k.1 k.2).st ≠ .off →
        ∀ r, r < 16384 → lineMarks t (physKey k.1 k.2 r) = (true, false))
      ∧ (∀ x, (∀ k ∈ groupBanks s.ctl, keptBank s.ctl k = false → x / 16384 ≠ 48 * k.1 + k.2) →
        lineMarks t x = lineMarks s x ∧ t.store.data x = s.store.data x)
      ∧ SameRegsBut [pwrSt] s t)) ∧
    (∀ cls index, e.wake = none → e.step ≤ 4 → wakeSource cls index = true →
      ((wakeCore cls index).any (isolated s.ctl) = false →
        Answers (.sleepWakeEvent cls index) s (fun t => t.ctl.pwr.entry = some { e with wake := some (cls, index) }
          ∧ SameRegs s t ∧ SameMemory s t)) ∧
      ((wakeCore cls index).any (isolated s.ctl) = true → Answers (.sleepWakeEvent cls index) s (fun t => t = s))) ∧
    (e.wake = none → e.step ≤ 4 → s.ctl.dev.run = .running → bit (reg s.ctl pwrAlarmHi) 31 = true → alarmAt s.ctl ≤ s.ctl.rtc →
      Answers .rtcAlarm s (fun t => t.ctl.pwr.entry = some { e with wake := some (3, 6) } ∧ SameRegs s t ∧ SameMemory s t))) ∧
  (∀ (s : State), s.ctl.dev.run = .asleep → bit (reg s.ctl pwrAlarmHi) 31 = true → alarmAt s.ctl ≤ s.ctl.rtc →
    Answers .rtcAlarm s (fun t => t.ctl.dev.run = .waking ∧ t.ctl.out.aonSleep = false ∧ (railsSteady s.ctl = true → t.ctl.pwr.vretLp = false)
      ∧ SameRegs s t ∧ SameMemory s t)) ∧
  (∀ (crc : BitVec 32) (s : State), s.ctl.dev.run = .waking → railsSteady s.ctl = true →
    (∀ v, s.ctl.pwr.saved = some v → s.ctl.pwr.saveCrc = some crc → anyLost s.ctl = false →
      Answers (.sleepExitComplete crc) s (fun t => t.ctl.dev.run = .running ∧ t.ctl.out.aonWake = true ∧ t.ctl.pwr.saved = none
        ∧ t.ctl.pwr.saveCrc = none ∧ t.ctl.pwr.vretLp = false ∧ bit (reg t.ctl pwrSt) 31 = bit (reg s.ctl pwrSt) 31
        ∧ t.ctl.prt.cap = v.cap ∧ t.ctl.prt.logLast = v.logLast ∧ t.ctl.prt.lane = v.lane ∧ t.ctl.lov.env = v.lov.env
        ∧ bits (reg t.ctl pwrSt) 0 16 = (bits (reg s.ctl pwrSt) 0 16 + 1) % 2 ^ 16 ∧ t.ctl.lfsrHp = v.lfsrHp
        ∧ (s.ctl.part.tiers ≤ 3 → s.ctl.port.reqs = [] → s.ctl.pwr.warnDue = [] →
          (∀ d, d < 20 → domReleased s.ctl d = true ∧ holdOn (restore v s.ctl) d = false) → cameBack v s t))) ∧
    (s.ctl.dev.needPower = false → s.ctl.pwr.saved = none ∨ s.ctl.pwr.saveCrc ≠ some crc ∨ anyLost s.ctl = true →
      Answers (.sleepExitComplete crc) s (fun t => t.ctl.dev.run = .loading ∧ t.ctl.pwr.saved = none ∧ t.ctl.pwr.latch = none
        ∧ bit (reg t.ctl pwrSt) 31 = false
        ∧ bits (reg t.ctl pwrSt) 0 16 = (bits (reg s.ctl pwrSt) 0 16 + 1) % 2 ^ 16
        ∧ (anyLost s.ctl = true → bits (reg t.ctl brlRstCause) 0 3 = 4)
        ∧ ∀ o, keptReg o = false → (∀ x ∈ s.ctl.pin.hot, o ≠ movPaceSt x) → reg t.ctl o = regReset s.ctl.part o)))

/-- The supply monitors: a low rail warns, keeps its lowest value and freezes wakes until it has been up for the set time; VAO and VRET have
their own bits, and the loss of VRET marks the retained banks LOST (R424, R434..R436); restored rails power the device, after a power-on only
with brl_rst_n high, and its loader notes the rates of the stacks that are HOT (R333, R459). Completion of SUPPLY_WARN, WAKE_FREEZE_END,
VAO_WARN, VRET_LOST and RAILS_RESTORED. -/
def Obligations.SuppliesAreWatched : Prop :=
  (∀ (r : Rail) (mv : Nat) (s : State), s.ctl.dev.run = .running →
    (mv < railWarn r →
      Answers (.supplyWarn r mv) s (fun t => railIdx r ∈ t.ctl.pwr.freeze
        ∧ bits (reg t.ctl pwrSupSt) (if r = .vddA then 0 else 8) 8
          = min (bits (reg s.ctl pwrSupSt) (if r = .vddA then 0 else 8) 8) ((mv - 500) / 5)
        ∧ (railWarn r ≤ railMv s.ctl r → bit (reg t.ctl pwrSupSt) (24 + railIdx r) = true ∧ bit (reg t.ctl pwrEv) 1 = true
          ∧ bit t.ctl.int.stat 8 = true)
        ∧ SameRegsBut [pwrSupSt, pwrEv] s t ∧ SameMemory s t)) ∧
    (railWarn r ≤ railMv s.ctl r →
      (if r = .vddA then s.ctl.pwr.okSinceA else s.ctl.pwr.okSinceB) + bits (reg s.ctl pwrSupCfg) 0 8 ≤ s.ctl.rtc →
      Answers (.wakeFreezeEnd r) s (fun t => (¬ railIdx r ∈ t.ctl.pwr.freeze) ∧ SameRegs s t ∧ SameMemory s t))) ∧
  (∀ (mv : Nat) (s : State), mv < 685 → s.ctl.dev.run ≠ .island →
    Answers (.vaoWarn mv) s (fun t => bit (reg t.ctl pwrSupSt) 26 = true ∧ t.ctl.pwr.freeze = s.ctl.pwr.freeze
      ∧ (s.ctl.dev.run ≠ .asleep → s.ctl.dev.run ≠ .waking → bit (reg t.ctl pwrEv) 1 = true ∧ bit t.ctl.int.stat 8 = true)
      ∧ (s.ctl.dev.run = .asleep ∨ s.ctl.dev.run = .waking → 2 ∈ t.ctl.pwr.warnDue ∧ SameRegsBut [pwrSupSt] s t)
      ∧ SameRegsBut [pwrSupSt, pwrEv] s t ∧ SameMemory s t)) ∧
  (∀ (s : State), Answers .vretLost s (fun t =>
    (∀ p b, (p, b) ∈ usedBanks s.ctl → (bankOf s.ctl p b).st = .ret → (bankOf t.ctl p b).lost = true)
    ∧ bit (reg t.ctl pwrVret) 31 = true ∧ SameRegsBut [pwrVret] s t ∧ SameMemory s t)) ∧
  (∀ (mvA mvB : Nat) (s : State), 665 ≤ mvA → 635 ≤ mvB → s.ctl.dev.run = .reset → s.ctl.dev.needPower = true →
    (s.ctl.dev.resetReq = none → s.ctl.pwr.bank.any (fun p => p.2.lost) = false → (s.ctl.dev.load = .powerOn → s.ctl.pin.rstN = true) →
      Answers (.railsRestored mvA mvB) s (fun t => t.ctl.dev.needPower = false ∧ t.ctl.pin.mvA = mvA ∧ t.ctl.pin.mvB = mvB
        ∧ t.ctl.fuse.applied = s.ctl.fuse.repairs
        ∧ t.ctl.dev.run = (if s.ctl.pin.rstN && !s.ctl.pin.devHold then .loading else .reset)
        ∧ SameRegsBut (s.ctl.pin.hot.map movPaceSt) s t ∧ SameMemory s t)) ∧
    (s.ctl.dev.load = .powerOn → s.ctl.pin.rstN = false →
      Answers (.railsRestored mvA mvB) s (fun t => t.ctl.dev.needPower = true ∧ t.ctl.dev.run = .reset
        ∧ t.ctl.fuse = s.ctl.fuse ∧ SameRegs s t ∧ SameMemory s t)))

/-- An interval of Lovage counts a microsecond and publishes what it drew, with its ballast, no higher than the cap unless the static term
alone is (events past what the interval can reach count in later ones, log 115; ballast counts when it is chosen, log 107); the envelope rises
at most by the up slope, to the cap at most; what was held is known, and for how long (log 48; R27, R438, R440..R442, R448, R455, R480); what
waited at the links goes on. lov_plan sets the floor while it is enabled (R445), and lov_shed ends ballast (R446), both while Lovage has power
(R430). Completion of LOVAGE_INTERVAL, LOV_PLAN and LOV_SHED. -/
def Obligations.LovageKeepsItsEnvelope : Prop :=
  (∀ (d : Demand) (s : State), s.ctl.dev.run = .running →
    Answers (.lovageInterval d) s (fun t => t.ctl.rtc = (s.ctl.rtc + 1) % 2 ^ 48
      ∧ t.ctl.lov.est = drawnMw s.ctl + t.ctl.lov.scrub + t.ctl.lov.act * 100000 / tokenOf s.ctl 7 * tokenOf s.ctl 7 / 100000
      ∧ (countedMw s.ctl ≤ limitMw s.ctl → drawnMw s.ctl = countedMw s.ctl)
      ∧ t.ctl.lov.est ≤ max (staticMw s.ctl) (1000 * bits (reg s.ctl lovCap) 0 10)
      ∧ t.ctl.lov.scrub + t.ctl.lov.act ≤ 1000 * bits (reg s.ctl lovCap) 0 10 - drawnMw s.ctl
      ∧ t.ctl.lov.env ≤ 1000 * bits (reg s.ctl lovCap) 0 10
      ∧ t.ctl.lov.env ≤ max s.ctl.lov.env (drawnMw s.ctl) + 50 * bits (reg s.ctl lovCfg) 0 7
      ∧ t.ctl.lov.held = heldNow d s.ctl
      ∧ (∀ i, i < 5 → tabGet 0 t.ctl.lov.waits i = if i ∈ heldNow d s.ctl ∧ tabGet 0 s.ctl.lov.spent i = 0 then tabGet 0 s.ctl.lov.waits i + 1
        else 0)
      ∧ SameRegsBut [lndLate, lndOor] s t ∧ SameMemory s t)) ∧
  (∀ (v : Nat) (s : State), bit (reg s.ctl lovCfg) 28 = true → baseLogicOn s.ctl = true →
    Answers (.lovPlan v) s (fun t => t.ctl.lov.plan = (if v % 1024 = 0 then none else some (v % 1024)) ∧ SameRegs s t ∧ SameMemory s t)) ∧
  (∀ (b : Bool) (s : State), Answers (.lovShed b) s (fun t => t.ctl.pin.shed = b
    ∧ (b = true → baseLogicOn s.ctl = true → t.ctl.lov.scrub = 0 ∧ t.ctl.lov.act = 0) ∧ SameRegs s t ∧ SameMemory s t))

/-- Each reset leaves the state that Table 12-9 keeps: the RTC, the registers of the always-on island and of past resets, lane failures,
migrations, redirect tables, retired slices and fuses hold over it, and memory but for LOST banks, after a brown-out boot memory and the
post-mortem region alone, every other line reading as a zero line from then on (log 80), with no line left half written (log 51). Registers
outside the table return to their reset values, and the ports lose their requests; the cause says which reset it was, 2 for one by DEV_HOLD,
which the test access port reaches (log 74; R404, R408, R450, R456..R458, R472, R474, R481). Out of SLEEP the keep-set and the lines stay, and
the save area's image does not (R431). A requested reset fences every domain, and takes effect with its crash record once the device has drained,
or forced 1 ms after the request where the drain or the record has not ended; no line but those of the record changes with it, and its loader
notes the stacks that are HOT (R333, R475). Completion of IMMEDIATE_DEVICE_RESET, DEV_HOLD, BROWN_OUT_RESET, REQUESTED_RESET_FORCED,
REQUESTED_DEVICE_RESET, DOMAIN_DRAINED and BRL_RST_REQ_FALL. -/
def Obligations.DeviceResetsKeepTheirState : Prop :=
  (∀ (s : State), Answers .brlRstReqFall s (fun t => t.ctl.pin.rstReq = false ∧ t.ctl.out.rstAck = false ∧ t.ctl.rtc = s.ctl.rtc
    ∧ t.ctl.prt = s.ctl.prt ∧ SameRegs s t ∧ SameMemory s t)) ∧
  ∀ (s : State), s.ctl.dev.needPower = false →
    (s.ctl.pin.rstN = true → s.ctl.dev.run = .running →
      Answers .immediateDeviceReset s (fun t => t.ctl.dev.run = .reset ∧ t.ctl.pin.rstN = false ∧ t.ctl.port.reqs = []
        ∧ bits (reg t.ctl brlRstCause) 0 3 = 2 ∧ (∀ o, keptReg o = false → reg t.ctl o = regReset s.ctl.part o)
        ∧ keptOver [brlRstCause] s t ∧ ∀ k, warmLine s t k)) ∧
    (s.ctl.pin.rstN = true → s.ctl.dev.run = .asleep → 665 ≤ s.ctl.pin.mvA → 635 ≤ s.ctl.pin.mvB →
      Answers .immediateDeviceReset s (fun t => t.ctl.dev.run = .reset ∧ t.ctl.pwr.saved = none ∧ t.ctl.fuse.applied = s.ctl.fuse.repairs
        ∧ (anyLost s.ctl = false → t.ctl.pwr.keepKept = true) ∧ t.ctl.rtc = s.ctl.rtc
        ∧ (∀ o, keptReg o = true → o ≠ pwrSt → o ≠ brlRstCause → reg t.ctl o = reg s.ctl o) ∧ ∀ k, warmLine s t k)) ∧
    (s.ctl.pin.devHold = false → s.ctl.dev.run = .running → s.ctl.tapIr = 0x10 →
      Answers (.devHold true) s (fun t => t.ctl.dev.run = .reset ∧ t.ctl.pin.devHold = true ∧ t.ctl.port.reqs = []
        ∧ bits (reg t.ctl brlRstCause) 0 3 = 2 ∧ (∀ o, keptReg o = false → reg t.ctl o = regReset s.ctl.part o)
        ∧ keptOver [brlRstCause] s t ∧ ∀ k, warmLine s t k)) ∧
    (∀ r mv, mv < railBor r → s.ctl.dev.run = .running →
      Answers (.brownOutReset r mv) s (fun t => t.ctl.dev.run = .reset ∧ t.ctl.dev.needPower = true ∧ t.ctl.port.reqs = []
        ∧ bits (reg t.ctl brlRstCause) 0 3 = 3 ∧ bit (reg t.ctl pwrSupSt) 31 = true
        ∧ (∀ o, keptReg o = false → reg t.ctl o = regReset s.ctl.part o) ∧ t.ctl.pwr.vretLp = true
        ∧ keptOver [brlRstCause, pwrSupSt] s t
        ∧ (∀ k, (isPmKey k || isBootKey k) = true → warmLine s t k)
        ∧ (∀ k, (isPmKey k || isBootKey k) = false → lineMarks t k = (true, false)))) ∧
    (∀ since, s.ctl.dev.resetReq = some since → s.ctl.dev.run = .running →
      (resetReady s = true →
        Answers (.domainDrained 20) s (fun t => requestTaken false (if s.ctl.out.fatal then ownPump s else crashRecord 3 s) s t)) ∧
      (∀ u, u = s.onCtl (emit (evQ 0x9A 0)) → since + 1000 ≤ s.ctl.rtc → resetReady s = false →
        Answers .requestedResetForced s (fun t => requestTaken true (if s.ctl.out.fatal then ownPump u else crashRecord 3 u) s t))) ∧
    (s.ctl.pin.rstReq = false → s.ctl.dev.run = .running → s.ctl.out.fatal = false → s.ctl.dev.resetReq = none →
      Answers (.requestedDeviceReset true) s (fun t => t.ctl.dev.resetReq = some s.ctl.rtc ∧ t.ctl.pin.rstReq = true
        ∧ (∀ d, d < 20 → domReleased t.ctl d = false) ∧ (∀ z, z < 16 → z ∈ t.ctl.out.rstReq) ∧ t.ctl.rtc = s.ctl.rtc
        ∧ (∀ o, keptReg o = true → reg t.ctl o = reg s.ctl o) ∧ (s.ctl.pwr.entry = none → SameRegs s t)
        ∧ t.ctl.prt.lane = s.ctl.prt.lane ∧ t.ctl.prt.mig = s.ctl.prt.mig ∧ t.ctl.prt.moved = s.ctl.prt.moved
        ∧ t.ctl.prt.retired = s.ctl.prt.retired ∧ SameMemory s t))

/-- With aon_por_n low, or VAO gone, every register returns to its reset value and every line to a zero line (log 80); power-on and the
release of DEV_HOLD, which acts as brl_rst_n (log 74), lead to the loader, which notes the stacks that are HOT (R27, R333, R437, R456, R459,
R528); a change of the clock's frequency outside reset, or one to a frequency or a wander outside R510, leaves the outputs undefined (R510,
R511). Completion of VAO_LOSS, AON_POR_N_LOW, POWER_ON, DEV_HOLD and PORT_CLOCK_CHANGE. -/
def Obligations.TheIslandResetsEverything : Prop :=
  (∀ (i : Instr) (s : State), i ∈ [Instr.vaoLoss, Instr.aonPorNLow] →
    Answers i s (fun t => (∀ o, reg t.ctl o = regReset s.ctl.part o) ∧ (∀ k, lineMarks t k = (true, false)) ∧ t.ctl.dev.run = .island
      ∧ t.ctl.fuse = s.ctl.fuse)) ∧
  (∀ (devId : Nat) (rstN : Bool) (s : State), s.ctl.dev.run = .island →
    Answers (.powerOn ⟨devId, rstN⟩) s (fun t => t.ctl.pin.devId = devId % 65536 ∧ t.ctl.pin.rstN = rstN
      ∧ (t.ctl.dev.run = .loading ↔ 665 ≤ s.ctl.pin.mvA ∧ 635 ≤ s.ctl.pin.mvB ∧ rstN = true ∧ s.ctl.pin.devHold = false)
      ∧ (665 ≤ s.ctl.pin.mvA → 635 ≤ s.ctl.pin.mvB → rstN = true ∨ s.ctl.dev.load ≠ .powerOn →
        t.ctl.dev.needPower = false ∧ t.ctl.fuse.applied = s.ctl.fuse.repairs)
      ∧ (s.ctl.pin.mvA < 665 ∨ s.ctl.pin.mvB < 635 ∨ (rstN = false ∧ s.ctl.dev.load = .powerOn) →
        t.ctl.dev.needPower = true ∧ t.ctl.fuse = s.ctl.fuse)
      ∧ SameRegsBut (s.ctl.pin.hot.map movPaceSt) s t ∧ SameMemory s t)) ∧
  (∀ (s : State), s.ctl.pin.devHold = true → s.ctl.dev.run = .reset → s.ctl.dev.needPower = false → s.ctl.pin.rstN = true → s.ctl.tapIr = 0x10 →
    Answers (.devHold false) s (fun t => t.ctl.dev.run = .loading ∧ t.ctl.pin.devHold = false
      ∧ SameRegsBut (brlRstCause :: s.ctl.pin.hot.map movPaceSt) s t ∧ SameMemory s t)) ∧
  (∀ (mhz wander : Nat) (s : State),
    Answers (.portClockChange ⟨mhz, wander⟩) s (fun t => t.ctl.pin.pcMhz = mhz
      ∧ (t.ctl.out.vague = true ↔ s.ctl.out.vague = true ∨ (mhz ≠ s.ctl.pin.pcMhz ∧ clockFree s.ctl = false) ∨ mhz < 1200 ∨ 2400 < mhz ∨ 50 < wander)
      ∧ SameRegs s t ∧ SameMemory s t))

/-- A hold, by c_zrst for a zone or by BRL_RST_HOLD for any domain, fences a released domain; a fenced domain that has drained enters reset;
it is released when nothing holds it (R467, R471). A zone that does not acknowledge in time is clamped, and its bit clears once it has (R473).
Completion of DOMAIN_FENCE, DOMAIN_DRAINED, DOMAIN_RELEASE, C_RST_ACK, FENCE_TIMEOUT and BRL_ISOL_CLEAR. -/
def Obligations.DomainsFenceDrainAndRelease : Prop :=
  ∀ (z : Nat) (s : State), z < 16 → s.ctl.dev.run = .running →
    (domReleased s.ctl z = true →
      Answers (.domainFence (.zrst z)) s (fun t => domOf t.ctl z = .fenced s.ctl.rtc ∧ z ∈ t.ctl.out.rstReq ∧ z ∈ t.ctl.pin.zrst
        ∧ (∀ d, d ≠ z → domOf t.ctl d = domOf s.ctl d) ∧ SameRegs s t ∧ SameMemory s t)) ∧
    (∀ a v d, hubTakes s.ctl a brlRstHold = true → d < 20 →
      (bit v d = true → domReleased s.ctl d = true →
        Answers (.domainFence (.reg a v)) s (fun t => domOf t.ctl d = .fenced s.ctl.rtc ∧ bit (reg t.ctl brlRstHold) d = true
          ∧ (d < 16 → d ∈ t.ctl.out.rstReq) ∧ SameMemory s t)) ∧
      (bit v d = false → domInReset s.ctl d = true → devFenced s.ctl = false →
        (d < 16 → s.ctl.pin.zrst.contains d = false ∧ s.ctl.pin.rstAck.contains d = false ∧ isolated s.ctl d = false) →
        Answers (.domainRelease (.reg a v)) s (fun t => domReleased t.ctl d = true ∧ bit (reg t.ctl brlRstHold) d = false
          ∧ (d < 16 → ¬ d ∈ t.ctl.out.rstReq) ∧ SameMemory s t))) ∧
    (∀ d, d < 20 → domFenced s.ctl d = true → devFenced s.ctl = false → drained s.ctl d = true → holdOn s.ctl d = true →
      Answers (.domainDrained d) s (fun t => domOf t.ctl d = .inReset ∧ bit (reg t.ctl brlRstLat) d = true ∧ bit t.ctl.int.stat 3 = true
        ∧ (∀ e, e ≠ d → domOf t.ctl e = domOf s.ctl e) ∧ SameMemory s t)) ∧
    (domInReset s.ctl z = true → bit (reg s.ctl brlRstHold) z = false → devFenced s.ctl = false → isolated s.ctl z = false →
      (s.ctl.pin.rstAck.contains z = false →
        Answers (.domainRelease (.zrst z)) s (fun t => domOf t.ctl z = .released ∧ (¬ z ∈ t.ctl.out.rstReq) ∧ SameMemory s t)) ∧
      (s.ctl.pin.zrst.contains z = false →
        Answers (.cRstAck z false) s (fun t => domOf t.ctl z = .released ∧ (¬ z ∈ t.ctl.out.rstReq) ∧ SameMemory s t))) ∧
    (∀ since, domOf s.ctl z = .fenced since → s.ctl.pin.rstAck.contains z = false → isolated s.ctl z = false →
      since + bits (reg s.ctl brlCfg) 0 16 ≤ s.ctl.rtc → drives s.ctl (.esc z) →
      Answers (.fenceTimeout z) s (fun t => isolated t.ctl z = true ∧ bit t.ctl.int.stat 2 = true ∧ t.ctl.edge = s.ctl.edge ++ [.esc z]
        ∧ SameRegsBut [brlIsol] s t ∧ SameMemory s t)) ∧
    (∀ a v, hubTakes s.ctl a brlIsol = true → bit v z = true → isolated s.ctl z = true → s.ctl.pin.rstAck.contains z = true →
      Answers (.brlIsolClear a v) s (fun t => isolated t.ctl z = false ∧ SameMemory s t))

/-- A fatal condition sets its bit and raises brl_fatal, fences every domain, writes the crash record of that moment, line by line where a
line waits for its bank, and starts an abort (R386, R475, R476; that the record's lines of that moment wait as the device's own writes is log
46, that a further condition writes the record anew log 44, that lines of it behind a lost redirect table are discarded log 159): of Sorrel's
state, which stops Sorrel (R356), of a committed or a migration table (R386, R387), and of a device whose slots have both failed (R463).
Findings that are not fatal mark the table that they are in, or count (log 94). An abort, the device's own or a marker's, is recorded, raises
its interrupt, closes every window, breaks their barriers and goes on by every other link, once for each origin (R477). Completion of
SRL_STATE_UE, FATAL_CONDITION, BRL_ABORT and ABORT_MARKER. -/
def Obligations.FatalConditionsAndAborts : Prop :=
  (∀ (s : State), baseLogicOn s.ctl = true →
    (s.ctl.srl.dead = false → ∀ i ∈ [Instr.srlStateUe, Instr.fatalCondition .sorrel],
      Answers i s (fun t => t.ctl.srl.dead = true ∧ wentFatal 0 none .sorrel s t)) ∧
    (s.ctl.srl.dead = false → domInReset s.ctl 18 = false →
      Answers (.fatalCondition .sorrelCe) s (fun t => t.ctl.srl = s.ctl.srl ∧ t.ctl.out = s.ctl.out ∧ SameRegs s t ∧ SameMemory s t)) ∧
    (∀ n, n < 128 → Answers (.fatalCondition (.committed n)) s (fun t => n ∈ t.ctl.prt.badCommitted
      ∧ wentFatal 1 (some (n / 8)) (.committed n) s t)) ∧
    (∀ z, z < 16 → Answers (.fatalCondition (.migration z)) s (fun t => z ∈ t.ctl.prt.badMig ∧ wentFatal 1 (some z) (.migration z) s t) ∧
      Answers (.fatalCondition (.pending z)) s (fun t => z ∈ t.ctl.prt.pendingBad ∧ SameRegs s t ∧ SameMemory s t) ∧
      Answers (.fatalCondition (.redirectCe z)) s (fun t => (reg t.ctl prtCe).toNat = min (2 ^ 32 - 1) ((reg s.ctl prtCe).toNat + 1)
        ∧ SameRegsBut [prtCe] s t ∧ SameMemory s t)) ∧
    (s.ctl.dev.run = .noImage → s.ctl.out.fatal = false → Answers (.fatalCondition .image) s (wentFatal 2 none .image s))) ∧
  (∀ (a : Agent) (v : Word) (s : State), hubTakes s.ctl a (rg 0 0x50) = true →
    (s.ctl.dev.seen.contains s.ctl.pin.devId = false →
      Answers (.brlAbort a v) s (wentAbort s.ctl.pin.devId (bits (reg s.ctl brlCfg) 16 4) none s)) ∧
    (s.ctl.dev.seen.contains s.ctl.pin.devId = true →
      Answers (.brlAbort a v) s (fun t => t.ctl.dev.seen = s.ctl.dev.seen ∧ SameRegs s t ∧ SameMemory s t))) ∧
  (∀ (l org hop : Nat) (s : State), baseLogicOn s.ctl = true → l < 12 → linkOn s.ctl l = true →
    (s.ctl.dev.seen.contains (org % 65536) = false → Answers (.abortMarker l org hop) s (wentAbort (org % 65536) (hop % 16) (some l) s)) ∧
    (s.ctl.dev.seen.contains (org % 65536) = true → Answers (.abortMarker l org hop) s (fun t => t.ctl.dev.seen = s.ctl.dev.seen
      ∧ t.ctl.edge = s.ctl.edge ∧ SameRegs s t ∧ SameMemory s t)))

/-- A load whose first slot passes every check applies it, its REG entries to the registers and its BOOT sections to boot memory, with zero
lines elsewhere, and locks the configuration; else the second, with its interrupt; when both slots fail, the device is without an image and
fatal (R461, R462, R463, R464, R465, R474). Once Acien is ready, with every recorded migration repeated, the ports open and every enabled link
is owed 64 credits (R125, R408, R465; log 112); that no migration may still run then is the model's choice (log 155), and BOOT lines behind a
lost redirect table are discarded (log 159). Completion of CONFIG_LOAD and ACIEN_READY. -/
def Obligations.LoadsStartTheDevice : Prop :=
  (∀ (devId : Nat) (f : Flash) (a b : Slot) (s : State), canLoad s.ctl = true → anyRetrain s.ctl = false → ownAvail s (bootTas a ++ bootTas b) = .ready →
    (slotCode s.ctl f a = 0 →
      Answers (.configLoad ⟨devId, f⟩ a b) s (fun t => t.ctl.dev.run = .starting ∧ locked t.ctl = true ∧ regsApplied a s t ∧ memoryApplied a s t
        ∧ reg t.ctl brlLoadSt = loadSt true false 1 0 0xFF ∧ t.ctl.pin.devId = devId % 65536)) ∧
    (slotCode s.ctl f a ≠ 0 → slotCode s.ctl f b = 0 →
      Answers (.configLoad ⟨devId, f⟩ a b) s (fun t => t.ctl.dev.run = .starting ∧ locked t.ctl = true ∧ regsApplied b s t ∧ memoryApplied b s t
        ∧ reg t.ctl brlLoadSt = loadSt true false 2 (slotCode s.ctl f a) 0 ∧ bit t.ctl.int.stat 4 = true)) ∧
    (slotCode s.ctl f a ≠ 0 → slotCode s.ctl f b ≠ 0 →
      Answers (.configLoad ⟨devId, f⟩ a b) s (fun t => t.ctl.dev.run = .noImage ∧ t.ctl.out.fatal = true
        ∧ bit (reg t.ctl prtFatal) 2 = true ∧ reg t.ctl brlLoadSt = loadSt false true 0 (slotCode s.ctl f a) (slotCode s.ctl f b)))) ∧
  (∀ (s : State), s.ctl.dev.run = .starting → acienRuns s.ctl = true → s.ctl.prt.mig.all (fun p => !p.2.active) = true →
    (∀ x ∈ s.ctl.prt.retLog, committed s.ctl x ≠ 9 * (x / 8) + x % 8) →
    Answers .acienReady s (fun t => t.ctl.dev.run = .running ∧ t.ctl.out.ready = true
      ∧ (∀ l, l < 12 → linkOn s.ctl l = true → tabGet 0 t.ctl.mov.lpOwed l = 64) ∧ SameRegs s t ∧ SameMemory s t))

/-- A write of a register of any block that is no command of its block changes the register's writable fields under their access codes, so
that reserved bits and, once the configuration is locked, locked fields keep their values, and nothing else changes (R12, R13, R14, R464);
those of an absent launch phase ignore it (R15). INT_EN and INT_MAP take their fields, and a cause written 1 in INT_STAT clears unless it is
raised in the same port cycle (R500, R501). BRL_CTRL.remap takes effect with its write (R499). A read of a 48-bit count's low word captures
the high one (R502). Completion of REGISTER_WRITE, BRL_CTRL_REMAP and CAPTURING_READ. -/
def Obligations.RegisterAccessesAct : Prop :=
  (∀ (a : Agent) (o : Nat) (v : Word) (s : State), takesWrite s a o → plainReg s.ctl a o = true →
    Answers (.registerWrite a (regBase + o) v) s (fun t =>
      reg t.ctl o = writeFields (locked s.ctl) (regReset s.ctl.part o) v (reg s.ctl o) (fieldsOf s.ctl.part o)
      ∧ (∀ i, i < 32 → (∀ f ∈ fieldsOf s.ctl.part o, i < f.lo ∨ f.lo + f.w ≤ i ∨ (f.acc = .rwl ∧ locked s.ctl = true)) →
        bit (reg t.ctl o) i = bit (reg s.ctl o) i)
      ∧ SameRegsBut [o] s t ∧ SameMemory s t)) ∧
  (∀ (a : Agent) (o : Nat) (v : Word) (s : State), hubTakes s.ctl a o = true → o = lovLaunch ∨ o = lovQuiet → launchOn s.ctl = false →
    Answers (.registerWrite a (regBase + o) v) s (fun t => SameRegs s t ∧ SameMemory s t)) ∧
  (∀ (a : Agent) (v : Word) (s : State), hubTakes s.ctl a (rg 15 0) = true →
    Answers (.registerWrite a (regBase + rg 15 4) v) s (fun t => (∀ n, bit t.ctl.int.en n = (decide (n < 24) && bit v n))
      ∧ t.ctl.int.map = s.ctl.int.map ∧ SameRegs s t ∧ SameMemory s t) ∧
    (∀ k, k < 3 → Answers (.registerWrite a (regBase + rg 15 (0x10 + 4 * k)) v) s (fun t =>
      t.ctl.int.map = listSet s.ctl.int.map k (v &&& 0x77777777#32) ∧ t.ctl.int.en = s.ctl.int.en ∧ SameRegs s t ∧ SameMemory s t)) ∧
    Answers (.registerWrite a (regBase + rg 15 0) v) s (fun t =>
      (∀ n, n < 24 → (bit v n = false ∧ bit s.ctl.int.stat n = true) ∨ bit s.ctl.int.raised n = true → bit t.ctl.int.stat n = true)
      ∧ (s.ctl.port.reqs = [] → ∀ n, n < 24 → bit t.ctl.int.stat n = ((bit s.ctl.int.stat n && !bit v n) || bit s.ctl.int.raised n))
      ∧ t.ctl.int.en = s.ctl.int.en ∧ t.ctl.int.map = s.ctl.int.map ∧ SameRegs s t ∧ SameMemory s t)) ∧
  (∀ (a : Agent) (v : Word) (s : State), hubTakes s.ctl a brlCtrl = true →
    Answers (.brlCtrlRemap a v) s (fun t => remapNow t.ctl = bit v 0 ∧ SameRegsBut [brlCtrl] s t ∧ SameMemory s t)) ∧
  (∀ (i : Nat) (s : State), i < 64 → hubTakes s.ctl .mp (rg 14 (0x108 + 16 * i)) = true → s.ctl.out.vague = false →
    Answers (.capturingRead .mp (regBase + rg 14 (0x108 + 16 * i))) s (fun t =>
      t.ctl.edge = s.ctl.edge ++ [.mpRs .ok (BitVec.ofNat 32 (ctrOf s.ctl i).cnt)] ∧ (ctrOf t.ctl i).hi = (ctrOf s.ctl i).cnt / 2 ^ 32
      ∧ (ctrOf t.ctl i).cnt = (ctrOf s.ctl i).cnt ∧ (∀ j, j ≠ i → ctrOf t.ctl j = ctrOf s.ctl j) ∧ SameRegs s t ∧ SameMemory s t))

/-- INT_SET raises the causes it names (R500); EVC_CTRL orders a snapshot or a clear for the end of the port cycle, where the counts of the
cycle are in, and a select write clears its counter (R504, R505). That a port cycle ends with a step on an empty queue is the model's choice
(log 2). Completion of INT_SET, EVC_SNAP, EVC_CLR and EVC_SELECT_WRITE. -/
def Obligations.InterruptsAndCountersAct : Prop :=
  ∀ (a : Agent) (v : Word) (s : State),
    (hubTakes s.ctl a (rg 15 0x0C) = true →
      Answers (.intSet a v) s (fun t => (∀ n, n < 24 → bit t.ctl.int.stat n = (bit v n || bit s.ctl.int.stat n))
        ∧ t.ctl.int.en = s.ctl.int.en ∧ SameRegs s t ∧ SameMemory s t)) ∧
    (hubTakes s.ctl a (rg 14 0) = true →
      Answers (.evcSnap a v) s (fun t => t.ctl.evc.run = bit v 0 ∧ t.ctl.evc.snapDue = true
        ∧ t.ctl.evc.clrDue = (s.ctl.evc.clrDue || bit v 2) ∧ t.ctl.evc.ctr = s.ctl.evc.ctr ∧ SameRegs s t ∧ SameMemory s t) ∧
      Answers (.evcClr a v) s (fun t => t.ctl.evc.run = bit v 0 ∧ t.ctl.evc.clrDue = true
        ∧ t.ctl.evc.snapDue = (s.ctl.evc.snapDue || bit v 1) ∧ t.ctl.evc.ctr = s.ctl.evc.ctr ∧ SameRegs s t ∧ SameMemory s t)) ∧
    (s.pending = [] → baseLogicOn s.ctl = true → ∃ c, step s = .next (settle (ownPump (s.onCtl (fun _ => pump (evcEdge c))))) ∧
      (c.evc.snapDue = true → c.evc.clrDue = false → ∀ i, ctrOf (evcEdge c) i = { ctrOf c i with snap := (ctrOf c i).cnt }) ∧
      (c.evc.clrDue = true → (∀ i, (ctrOf (evcEdge c) i).cnt = 0 ∧ (ctrOf (evcEdge c) i).snap = 0) ∧ (evcEdge c).evc.ovf = []) ∧
      c.evc.snapDue = s.ctl.evc.snapDue ∧ c.evc.clrDue = s.ctl.evc.clrDue ∧ (evcEdge c).evc.snapDue = false ∧ (evcEdge c).evc.clrDue = false) ∧
    (∀ i flt, i < 64 → hubTakes s.ctl a (rg 14 (0x100 + 16 * i + if flt then 4 else 0)) = true →
      Answers (.evcSelectWrite a i flt v) s (fun t => (ctrOf t.ctl i).cnt = 0
        ∧ (flt = false → srcLegal (bits v 0 8) = true → bits (ctrOf t.ctl i).sel 0 8 = bits v 0 8 ∧ bit (ctrOf t.ctl i).sel 31 = bit v 31)
        ∧ (flt = true → bits (ctrOf t.ctl i).flt 0 16 = bits v 0 16 ∧ (ctrOf t.ctl i).sel = (ctrOf s.ctl i).sel)
        ∧ (∀ j, j ≠ i → ctrOf t.ctl j = ctrOf s.ctl j) ∧ SameRegs s t ∧ SameMemory s t))

/-- An instrument that the IEEE 1687 network reaches acts while DEV_HOLD is 1 and is refused else, and one that is not reached does nothing
(R527, R528; log 71): BIST leaves zero lines in the banks that it tests (R530); each repair is appended where a spare is left (R531, R532; log
72); the key is programmed once and read, and the fuses are read, whatever DEV_HOLD is (R533; log 73); the TAP takes its instruction, its
segments and its states, but none of it in SLEEP, where DEV_HOLD alone is heard (R430, R525, R527; logs 120, 160). Completion of BIST, REPAIR,
LANE_TEST, BOND_TEST, KEY_PROGRAM, FUSE_READ and TAP_INSTRUCTION. -/
def Obligations.TestAccessActs : Prop :=
  ∀ (s : State),
    (reached s.ctl = false → ∀ i, (∃ rs, i = .bist rs) ∨ (∃ p es, i = .repair p es) ∨ (∃ p b bad, i = .laneTest p b bad)
        ∨ (∃ b bad, i = .bondTest b bad) ∨ (∃ k, i = .keyProgram k) ∨ i = .fuseRead → Answers i s (fun t => t = s)) ∧
    (reached s.ctl = true →
      (s.ctl.pin.devHold = false → ∀ i, (∃ rs, i = .bist rs) ∨ (∃ p es, sliceReached s.ctl p = true ∧ i = .repair p es)
          ∨ (∃ p b bad, sliceReached s.ctl p = true ∧ i = .laneTest p b bad) ∨ (∃ b bad, i = .bondTest b bad) →
        Answers i s (fun t => t.ctl.report = .refused ∧ t.ctl.fuse = s.ctl.fuse ∧ SameRegs s t ∧ SameMemory s t)) ∧
      (s.ctl.pin.devHold = true →
        (∀ rs, s.store.blur = none → Answers (.bist rs) s (fun t =>
          t.ctl.report = .bist (rs.filter (fun r => decide (r.slice < 144 ∧ r.bank < bankCount s.ctl) && sliceReached s.ctl r.slice))
          ∧ (∀ r ∈ rs, r.slice < 144 → r.bank < bankCount s.ctl → sliceReached s.ctl r.slice = true →
            ∀ x, x < 16384 → lineMarks t (physKey r.slice r.bank x) = (true, false))
          ∧ (∀ k, (∀ r ∈ rs, k / 16384 ≠ 48 * r.slice + r.bank) → lineMarks t k = lineMarks s k) ∧ SameRegs s t)) ∧
        (∀ p es, sliceReached s.ctl p = true → Answers (.repair p es) s (fun t => t.ctl.report = .done
          ∧ tabGet [] t.ctl.fuse.repairs p = es.foldl (appendEntry s.ctl) (tabGet [] s.ctl.fuse.repairs p)
          ∧ (∀ e, es = [e] → tabGet [] t.ctl.fuse.repairs p = tabGet [] s.ctl.fuse.repairs p
            ++ (if entryFits s.ctl e = true ∧ ((tabGet [] s.ctl.fuse.repairs p).filter (sameSpares e)).length < spareLimit e then [e] else []))
          ∧ (∀ y, y ≠ p → tabGet [] t.ctl.fuse.repairs y = tabGet [] s.ctl.fuse.repairs y)
          ∧ t.ctl.fuse.applied = s.ctl.fuse.applied ∧ SameRegs s t ∧ SameMemory s t)) ∧
        (∀ p b bad, sliceReached s.ctl p = true →
          Answers (.laneTest p b bad) s (fun t => t.ctl.report = .lanes p b bad ∧ SameRegs s t ∧ SameMemory s t)) ∧
        (∀ b bad, Answers (.bondTest b bad) s (fun t => t.ctl.report = .bonds b bad ∧ SameRegs s t ∧ SameMemory s t))) ∧
      (∀ h, Answers (.keyProgram (.program h)) s (fun t => t.ctl.fuse.keyLock = true
        ∧ t.ctl.fuse.keyHash = (if s.ctl.fuse.keyLock then s.ctl.fuse.keyHash else h)
        ∧ t.ctl.report = (if s.ctl.fuse.keyLock then .refused else .done) ∧ SameRegs s t ∧ SameMemory s t)) ∧
      Answers (.keyProgram .read) s (fun t => t.ctl.report = .key s.ctl.fuse.keyHash s.ctl.fuse.keyLock ∧ t.ctl.fuse = s.ctl.fuse
        ∧ SameRegs s t ∧ SameMemory s t) ∧
      Answers .fuseRead s (fun t => t.ctl.report = .fuses s.ctl.fuse.keyHash s.ctl.fuse.keyLock s.ctl.fuse.repairs s.ctl.part
        ∧ t.ctl.fuse = s.ctl.fuse ∧ SameRegs s t ∧ SameMemory s t)) ∧
    (slept s.ctl = true → ∀ op, Answers (.tapInstruction op) s (fun t => t = s)) ∧
    (slept s.ctl = false → ∀ op, Answers (.tapInstruction op) s (fun t =>
      (op = .reset → tapSelects t.ctl = .idcode ∧ t.ctl.tap.zones = [] ∧ t.ctl.tap.slices = [])
      ∧ (∀ k, op = .load k → k < 256 → tapSelects t.ctl = (if k = 0x01 then .idcode else if k = 0x10 then .ijtag else .bypass))
      ∧ (∀ zs ps, op = .segments zs ps → reached s.ctl = true →
        ∀ p, sliceReached t.ctl p = true ↔ p / 9 ∈ zs ∧ p ∈ ps)
      ∧ (∀ tms tdi, op = .tck tms tdi → t.ctl.tap.st = s.ctl.tap.st.next tms
        ∧ (s.ctl.tap.st.next tms = .updateIr → t.ctl.tapIr = s.ctl.tap.irShift)
        ∧ (s.ctl.tap.st = .captureIr → t.ctl.tap.irShift = 0x01))
      ∧ SameRegs s t ∧ SameMemory s t))

/-- Every command of the table is answered with a next state, and none touches the queue: no command stops, in any state. That a command
whose conditions do not hold answers a next state is the model's choice (log 1). -/
def Obligations.EveryCommandIsAnswered : Prop :=
  ∀ (i : Instr) (s : State), ∃ t, exec i s = .next t ∧ t.pending = s.pending

/-- A step takes the command at the front of the queue and is exec of it with the queue's rest; on an empty queue it ends a port cycle and
counts it while the base logic has power; memory changes with it only where lines of Brural's own or bank moves wait (log 2). -/
def Obligations.StepRunsTheFront : Prop :=
  (∀ (i : Instr) (rest : List Instr) (s : State), s.pending = i :: rest → step s = exec i { s with pending := rest }) ∧
  (∀ (s : State), s.pending = [] → ∃ t, step s = .next t
    ∧ t.ctl.pc = (if baseLogicOn s.ctl then s.ctl.pc + 1 else s.ctl.pc) ∧ t.pending = []
    ∧ (s.ctl.dev.own = [] → s.ctl.pwr.moves = [] → SameMemory s t))

/-- Every step keeps the canonical form of tensor memory: bytes rising and none of them zero, marks rising, no empty list of flips. -/
def Obligations.StepKeepsTheMemoryForm : Prop :=
  ∀ (s t : State), s.store.wf = true → step s = .next t → t.store.wf = true

/-- The state after reset: memory has its canonical form and reads as zero lines, every register has the reset value of its table, no port is
open, c_rst_req is 1 for every core, and no command waits (R87, R268, R473, Table 13-17). The state of before
the first power-on as the reset state, and the values that memory and registers have there, are the model's choices (logs 3, 5, 80). -/
def Obligations.ResetState : Prop :=
  State.reset.store.wf = true ∧ (∀ k, lineMarks State.reset k = (true, false)) ∧ (∀ a, byteAt State.reset a = 0)
  ∧ (∀ o, reg State.reset.ctl o = regReset Part.reference o) ∧ (∀ p, portOpen State.reset.ctl p = false)
  ∧ (∀ z, z < 16 → z ∈ State.reset.ctl.out.rstReq) ∧ (∀ g, g < 4 → (grpOf State.reset.ctl g).active = true) ∧ State.reset.pending = []

/-- A SEND's beat of two lines leaves on its link against a credit, and credits come back, at most 255 (R125, R313). An inbound line for an open
window of its generation spends a credit and goes to memory at the window's base plus its offset, or waits while its region changes (R73); for
another generation it is dropped and counted (R124, R125, R324). Completion of LP_OUT_BEAT, LP_OUT_CREDIT and LP_IN_BEAT. -/
def Obligations.LinksCarryLines : Prop :=
  (∀ (l q : Nat) (r : Run) (x y : LineRes) (s : State), (queueOf s.ctl q).run = some r → r.op = 10 → r.force = none → r.stop = false →
    nbits (r.word 0) 40 4 = l → 2 * r.beats + 1 < r.total s.ctl → 0 < tabGet 0 s.ctl.mov.lpCredit l →
    tabFind r.buf (rKey (2 * r.beats)) = some x → tabFind r.buf (rKey (2 * r.beats + 1)) = some y → x.st = .ok → y.st = .ok →
    drives s.ctl (.lpOut l (nbits (r.word 0) 32 8) (nbits (r.word 0) 48 16) (nbits (r.word 2) 0 32 + 128 * r.beats) [true, true]
      [false, false] [x.data, y.data]) →
    Answers (.lpOutBeat l q) s (fun t =>
      t.ctl.edge = s.ctl.edge ++ [.lpOut l (nbits (r.word 0) 32 8) (nbits (r.word 0) 48 16) (nbits (r.word 2) 0 32 + 128 * r.beats)
        [true, true] [false, false] [x.data, y.data]]
      ∧ tabGet 0 t.ctl.mov.lpCredit l + 1 = tabGet 0 s.ctl.mov.lpCredit l ∧ runs t q (fun y => y.beats = r.beats + 1)
      ∧ SameRegs s t ∧ SameMemory s t)) ∧
  (∀ (l : Nat) (s : State), linkOn s.ctl l = true →
    Answers (.lpOutCredit l) s (fun t => tabGet 0 t.ctl.mov.lpCredit l = min 255 (tabGet 0 s.ctl.mov.lpCredit l + 1)
      ∧ (∀ k, k ≠ l → tabGet 0 t.ctl.mov.lpCredit k = tabGet 0 s.ctl.mov.lpCredit k) ∧ SameRegs s t ∧ SameMemory s t)) ∧
  (∀ (l w gen off : Nat) (d : Line) (bad : Bool) (s : State), l < 12 → w < 256 → gen < 65536 → off % 64 = 0 → s.ctl.dev.run = .running →
     linkOn s.ctl l = true → bit (reg s.ctl pwrSt) 31 = false → tabGet 0 s.ctl.mov.lpGiven l ≠ 0 → s.ctl.pwr.entry = none →
     s.ctl.lnd.inbox = [] → lovFull s.ctl 4 (beatEnergy s.ctl ⟨l, w, gen, off, [true, false], [bad, false], [d]⟩) = false →
     (∀ y ∈ s.ctl.lnd.land, y.id < s.ctl.lnd.next ∧ y.wait = none) →
     ((winOf s.ctl w).isOpen = true → (winOf s.ctl w).gen = gen → off + 64 ≤ winSize s.ctl w →
       (regionBusy s.ctl (winBase s.ctl w + off) = false →
         addrStatus s.ctl true (winBase s.ctl w + off) = none →
         Answers (.lpInBeat l w gen off [true, false] [bad, false] [d]) s (fun t =>
           asks t (.land s.ctl.lnd.next) (winBase s.ctl w + off) (.write ((List.range 64).map (fun k => d.getD k 0)) fullMask bad)
           ∧ t.ctl.lnd.land = s.ctl.lnd.land ++ [⟨s.ctl.lnd.next, l, w, gen, none, none⟩] ∧ t.ctl.lnd.next = s.ctl.lnd.next + 1
           ∧ tabGet 0 t.ctl.mov.lpGiven l + 1 = tabGet 0 s.ctl.mov.lpGiven l
           ∧ tabGet 0 t.ctl.mov.lpOwed l = tabGet 0 s.ctl.mov.lpOwed l + 1 ∧ SameRegs s t ∧ SameMemory s t)) ∧
       (regionBusy s.ctl (winBase s.ctl w + off) = true →
         Answers (.lpInBeat l w gen off [true, false] [bad, false] [d]) s (fun t =>
           t.ctl.lnd.land = s.ctl.lnd.land ++ [⟨s.ctl.lnd.next, l, w, gen, none,
             some (winBase s.ctl w + off, (List.range 64).map (fun k => d.getD k 0), bad)⟩]
           ∧ t.ctl.port.ops = s.ctl.port.ops ∧ SameRegs s t ∧ SameMemory s t))) ∧
     ((winOf s.ctl w).gen ≠ gen → domInReset s.ctl 17 = false →
       Answers (.lpInBeat l w gen off [true, false] [bad, false] [d]) s (fun t =>
         (winOf t.ctl w).drop = satAdd 32 (winOf s.ctl w).drop 1
         ∧ (reg t.ctl lndLate).toNat = min (2 ^ 32 - 1) ((reg s.ctl lndLate).toNat + 1)
         ∧ t.ctl.lnd.land = s.ctl.lnd.land ∧ SameRegsBut [lndLate] s t ∧ SameMemory s t)))
end

