-- ==== Sys2Proof/Laws/Tab.lean ====
section
/-! SUPPORT. Laws of the sparse tables: what a read finds after a write, for any list of pairs, and the canonical form, which every write keeps. -/

namespace Sys2Proof.Machine

variable {α : Type}

theorem tabFind_tabIns (k j : Nat) (v : α) (t : Tab α) :
    tabFind (tabIns k v t) j = if k = j then some v else tabFind t j := by
  induction t with
  | nil => simp [tabIns, tabFind]
  | cons p r ih =>
    obtain ⟨i, w⟩ := p
    unfold tabIns
    by_cases h1 : k < i
    · simp [h1, tabFind]
    · by_cases h2 : k = i
      · subst h2
        by_cases h3 : k = j <;> simp [tabFind, h3]
      · rw [if_neg h1, if_neg h2]
        by_cases h3 : i = j
        · subst h3
          simp [tabFind, h2]
        · simp [tabFind, h3, ih]

theorem tabFind_filter (f : Nat → Bool) (t : Tab α) (j : Nat) :
    tabFind (t.filter (fun p => f p.1)) j = if f j then tabFind t j else none := by
  induction t with
  | nil => simp [tabFind]
  | cons p r ih =>
    obtain ⟨i, w⟩ := p
    by_cases h1 : f i = true
    · by_cases h3 : i = j
      · subst h3
        simp [h1, tabFind]
      · simp [h1, tabFind, h3, ih]
    · by_cases h3 : i = j
      · subst h3
        simp [h1, ih]
      · simp [h1, tabFind, h3, ih]

theorem tabFind_tabDel (k j : Nat) (t : Tab α) : tabFind (tabDel k t) j = if j = k then none else tabFind t j := by
  have h := tabFind_filter (fun i => decide (i ≠ k)) t j
  by_cases hj : j = k <;> simp_all [tabDel]

theorem tabGet_tabPut [DecidableEq α] (d : α) (k j : Nat) (v : α) (t : Tab α) :
    tabGet d (tabPut d k v t) j = if k = j then v else tabGet d t j := by
  unfold tabPut tabGet
  by_cases hv : v = d
  · subst hv
    by_cases h : j = k
    · subst h; simp [tabFind_tabDel]
    · have h2 : ¬ k = j := fun e => h e.symm
      simp [tabFind_tabDel, h, h2]
  · by_cases h : k = j <;> simp [hv, tabFind_tabIns, h]

@[simp] theorem tabGet_tabPut_same [DecidableEq α] (d : α) (k : Nat) (v : α) (t : Tab α) : tabGet d (tabPut d k v t) k = v := by
  simp [tabGet_tabPut]

theorem tabGet_tabPut_ne [DecidableEq α] (d : α) (k j : Nat) (v : α) (t : Tab α) (h : k ≠ j) :
    tabGet d (tabPut d k v t) j = tabGet d t j := by
  simp [tabGet_tabPut, h]

theorem tabFind_map (f : Nat → α → α) (t : Tab α) (j : Nat) :
    tabFind (t.map (fun p => (p.1, f p.1 p.2))) j = (tabFind t j).map (f j) := by
  induction t with
  | nil => rfl
  | cons p r ih =>
    obtain ⟨i, w⟩ := p
    by_cases h : i = j
    · subst h; simp [tabFind]
    · simp [tabFind, h, ih]

theorem tabSorted_filter (f : Nat × α → Bool) (t : Tab α) (h : tabSorted t = true) : tabSorted (t.filter f) = true := by
  induction t with
  | nil => rfl
  | cons p r ih =>
    simp only [tabSorted, Bool.and_eq_true, List.all_eq_true] at h
    by_cases hf : f p = true
    · simp only [List.filter_cons, hf, if_true, tabSorted, Bool.and_eq_true, List.all_eq_true]
      exact ⟨fun x hx => h.1 x (List.mem_filter.mp hx).1, ih h.2⟩
    · simp only [List.filter_cons, hf]
      exact ih h.2

theorem tabSorted_tabDel (k : Nat) (t : Tab α) (h : tabSorted t = true) : tabSorted (tabDel k t) = true :=
  tabSorted_filter _ t h

theorem mem_tabIns (k : Nat) (v : α) (t : Tab α) (p : Nat × α) (h : p ∈ tabIns k v t) : p = (k, v) ∨ p ∈ t := by
  induction t with
  | nil => exact .inl (List.mem_singleton.mp h)
  | cons q r ih =>
    unfold tabIns at h
    by_cases h1 : k < q.1
    · rw [if_pos h1] at h
      exact (List.mem_cons.mp h)
    · by_cases h2 : k = q.1
      · rw [if_neg h1, if_pos h2] at h
        rcases List.mem_cons.mp h with h | h
        · exact .inl h
        · exact .inr (List.mem_cons_of_mem _ h)
      · rw [if_neg h1, if_neg h2] at h
        rcases List.mem_cons.mp h with h | h
        · exact .inr (h ▸ List.mem_cons_self)
        · exact (ih h).imp_right (List.mem_cons_of_mem _)

theorem tabSorted_tabIns (k : Nat) (v : α) (t : Tab α) (h : tabSorted t = true) : tabSorted (tabIns k v t) = true := by
  induction t with
  | nil => rfl
  | cons q r ih =>
    have h0 := h
    simp only [tabSorted, Bool.and_eq_true, List.all_eq_true, decide_eq_true_eq] at h
    unfold tabIns
    by_cases h1 : k < q.1
    · rw [if_pos h1]
      simp only [tabSorted, Bool.and_eq_true, List.all_eq_true, decide_eq_true_eq]
      refine ⟨fun x hx => ?_, h.1, h.2⟩
      rcases List.mem_cons.mp hx with hx | hx
      · exact hx ▸ h1
      · exact Nat.lt_trans h1 (h.1 x hx)
    · by_cases h2 : k = q.1
      · rw [if_neg h1, if_pos h2]
        simp only [tabSorted, Bool.and_eq_true, List.all_eq_true, decide_eq_true_eq]
        exact ⟨fun x hx => h2 ▸ h.1 x hx, h.2⟩
      · rw [if_neg h1, if_neg h2]
        simp only [tabSorted, Bool.and_eq_true, List.all_eq_true, decide_eq_true_eq]
        refine ⟨fun x hx => ?_, ih h.2⟩
        rcases mem_tabIns k v r x hx with rfl | hx
        · exact Nat.lt_of_le_of_ne (Nat.le_of_not_lt h1) (fun e => h2 e.symm)
        · exact h.1 x hx

theorem tabWf_filter [DecidableEq α] (d : α) (f : Nat × α → Bool) (t : Tab α) (h : tabWf d t = true) : tabWf d (t.filter f) = true := by
  simp only [tabWf, Bool.and_eq_true, List.all_eq_true] at h ⊢
  exact ⟨tabSorted_filter f t h.1, fun x hx => h.2 x (List.mem_filter.mp hx).1⟩

theorem tabWf_tabPut [DecidableEq α] (d : α) (k : Nat) (v : α) (t : Tab α) (h : tabWf d t = true) : tabWf d (tabPut d k v t) = true := by
  unfold tabPut
  by_cases hv : v = d
  · rw [if_pos hv]
    exact tabWf_filter d _ t h
  · rw [if_neg hv]
    simp only [tabWf, Bool.and_eq_true, List.all_eq_true, decide_eq_true_eq] at h ⊢
    refine ⟨tabSorted_tabIns k v t h.1, fun x hx => ?_⟩
    rcases mem_tabIns k v t x hx with rfl | hx
    · exact hv
    · exact h.2 x hx

end Sys2Proof.Machine
end

