-- ==== Sys2Proof/Laws/State.lean ====
section
/-! SUPPORT. The fields of State under each update: one statement per update operation that every other field holds its value, each
clause true by unfolding, and what each table reads after an entry is written. -/

namespace Sys2Proof.Machine

@[simp] theorem onCtl_store (f : Ctl → Ctl) (s : State) : (s.onCtl f).store = s.store := rfl
@[simp] theorem onCtl_ctl (f : Ctl → Ctl) (s : State) : (s.onCtl f).ctl = f s.ctl := rfl
@[simp] theorem onCtl_pending (f : Ctl → Ctl) (s : State) : (s.onCtl f).pending = s.pending := rfl
@[simp] theorem onStore_store (f : Store → Store) (s : State) : (s.onStore f).store = f s.store := rfl
@[simp] theorem onStore_ctl (f : Store → Store) (s : State) : (s.onStore f).ctl = s.ctl := rfl
@[simp] theorem onStore_pending (f : Store → Store) (s : State) : (s.onStore f).pending = s.pending := rfl

/-! Updates that always write, and write nothing else. -/

@[simp] theorem setReg_frame (o : Nat) (v : Word) (c : Ctl) :
    (setReg o v c).part = c.part ∧ (setReg o v c).fuse = c.fuse ∧ (setReg o v c).pin = c.pin ∧ (setReg o v c).out = c.out ∧ (setReg o v
    c).edge = c.edge ∧ (setReg o v c).pc = c.pc ∧ (setReg o v c).rtc = c.rtc ∧ (setReg o v c).int = c.int ∧ (setReg o v c).evc = c.evc ∧
    (setReg o v c).port = c.port ∧ (setReg o v c).grp = c.grp ∧ (setReg o v c).frPace = c.frPace ∧ (setReg o v c).chv = c.chv ∧ (setReg
    o v c).lfsrPort = c.lfsrPort ∧ (setReg o v c).lfsrQ = c.lfsrQ ∧ (setReg o v c).lfsrHp = c.lfsrHp ∧ (setReg o v c).mov = c.mov ∧
    (setReg o v c).lnd = c.lnd ∧ (setReg o v c).srl = c.srl ∧ (setReg o v c).prt = c.prt ∧ (setReg o v c).pwr = c.pwr ∧ (setReg o v
    c).lov = c.lov ∧ (setReg o v c).dev = c.dev ∧ (setReg o v c).region = c.region ∧ (setReg o v c).tapIr = c.tapIr ∧ (setReg o v c).tap
    = c.tap ∧ (setReg o v c).report = c.report ∧ (setReg o v c).free = c.free := by
  unfold setReg
  exact ⟨rfl, rfl, rfl, rfl, rfl, rfl, rfl, rfl, rfl, rfl, rfl, rfl, rfl, rfl, rfl, rfl, rfl, rfl, rfl, rfl, rfl, rfl, rfl, rfl, rfl, rfl,
    rfl, rfl⟩

@[simp] theorem modReg_frame (o : Nat) (f : Word → Word) (c : Ctl) :
    (modReg o f c).part = c.part ∧ (modReg o f c).fuse = c.fuse ∧ (modReg o f c).pin = c.pin ∧ (modReg o f c).out = c.out ∧ (modReg o f
    c).edge = c.edge ∧ (modReg o f c).pc = c.pc ∧ (modReg o f c).rtc = c.rtc ∧ (modReg o f c).int = c.int ∧ (modReg o f c).evc = c.evc ∧
    (modReg o f c).port = c.port ∧ (modReg o f c).grp = c.grp ∧ (modReg o f c).frPace = c.frPace ∧ (modReg o f c).chv = c.chv ∧ (modReg
    o f c).lfsrPort = c.lfsrPort ∧ (modReg o f c).lfsrQ = c.lfsrQ ∧ (modReg o f c).lfsrHp = c.lfsrHp ∧ (modReg o f c).mov = c.mov ∧
    (modReg o f c).lnd = c.lnd ∧ (modReg o f c).srl = c.srl ∧ (modReg o f c).prt = c.prt ∧ (modReg o f c).pwr = c.pwr ∧ (modReg o f
    c).lov = c.lov ∧ (modReg o f c).dev = c.dev ∧ (modReg o f c).region = c.region ∧ (modReg o f c).tapIr = c.tapIr ∧ (modReg o f c).tap
    = c.tap ∧ (modReg o f c).report = c.report ∧ (modReg o f c).free = c.free :=
  setReg_frame o _ c

@[simp] theorem raiseBit_frame (o i : Nat) (c : Ctl) :
    (raiseBit o i c).part = c.part ∧ (raiseBit o i c).fuse = c.fuse ∧ (raiseBit o i c).pin = c.pin ∧ (raiseBit o i c).out = c.out ∧
    (raiseBit o i c).edge = c.edge ∧ (raiseBit o i c).pc = c.pc ∧ (raiseBit o i c).rtc = c.rtc ∧ (raiseBit o i c).int = c.int ∧
    (raiseBit o i c).evc = c.evc ∧ (raiseBit o i c).port = c.port ∧ (raiseBit o i c).grp = c.grp ∧ (raiseBit o i c).frPace = c.frPace ∧
    (raiseBit o i c).chv = c.chv ∧ (raiseBit o i c).lfsrPort = c.lfsrPort ∧ (raiseBit o i c).lfsrQ = c.lfsrQ ∧ (raiseBit o i c).lfsrHp =
    c.lfsrHp ∧ (raiseBit o i c).mov = c.mov ∧ (raiseBit o i c).lnd = c.lnd ∧ (raiseBit o i c).srl = c.srl ∧ (raiseBit o i c).prt = c.prt
    ∧ (raiseBit o i c).pwr = c.pwr ∧ (raiseBit o i c).lov = c.lov ∧ (raiseBit o i c).dev = c.dev ∧ (raiseBit o i c).region = c.region ∧
    (raiseBit o i c).tapIr = c.tapIr ∧ (raiseBit o i c).tap = c.tap ∧ (raiseBit o i c).report = c.report ∧ (raiseBit o i c).free =
    c.free :=
  modReg_frame o _ c

@[simp] theorem bumpSat_frame (o lo w : Nat) (c : Ctl) :
    (bumpSat o lo w c).part = c.part ∧ (bumpSat o lo w c).fuse = c.fuse ∧ (bumpSat o lo w c).pin = c.pin ∧ (bumpSat o lo w c).out =
    c.out ∧ (bumpSat o lo w c).edge = c.edge ∧ (bumpSat o lo w c).pc = c.pc ∧ (bumpSat o lo w c).rtc = c.rtc ∧ (bumpSat o lo w c).int =
    c.int ∧ (bumpSat o lo w c).evc = c.evc ∧ (bumpSat o lo w c).port = c.port ∧ (bumpSat o lo w c).grp = c.grp ∧ (bumpSat o lo w
    c).frPace = c.frPace ∧ (bumpSat o lo w c).chv = c.chv ∧ (bumpSat o lo w c).lfsrPort = c.lfsrPort ∧ (bumpSat o lo w c).lfsrQ =
    c.lfsrQ ∧ (bumpSat o lo w c).lfsrHp = c.lfsrHp ∧ (bumpSat o lo w c).mov = c.mov ∧ (bumpSat o lo w c).lnd = c.lnd ∧ (bumpSat o lo w
    c).srl = c.srl ∧ (bumpSat o lo w c).prt = c.prt ∧ (bumpSat o lo w c).pwr = c.pwr ∧ (bumpSat o lo w c).lov = c.lov ∧ (bumpSat o lo w
    c).dev = c.dev ∧ (bumpSat o lo w c).region = c.region ∧ (bumpSat o lo w c).tapIr = c.tapIr ∧ (bumpSat o lo w c).tap = c.tap ∧
    (bumpSat o lo w c).report = c.report ∧ (bumpSat o lo w c).free = c.free :=
  modReg_frame o _ c

@[simp] theorem bumpMod_frame (o lo w n : Nat) (c : Ctl) :
    (bumpMod o lo w n c).part = c.part ∧ (bumpMod o lo w n c).fuse = c.fuse ∧ (bumpMod o lo w n c).pin = c.pin ∧ (bumpMod o lo w n
    c).out = c.out ∧ (bumpMod o lo w n c).edge = c.edge ∧ (bumpMod o lo w n c).pc = c.pc ∧ (bumpMod o lo w n c).rtc = c.rtc ∧ (bumpMod o
    lo w n c).int = c.int ∧ (bumpMod o lo w n c).evc = c.evc ∧ (bumpMod o lo w n c).port = c.port ∧ (bumpMod o lo w n c).grp = c.grp ∧
    (bumpMod o lo w n c).frPace = c.frPace ∧ (bumpMod o lo w n c).chv = c.chv ∧ (bumpMod o lo w n c).lfsrPort = c.lfsrPort ∧ (bumpMod o
    lo w n c).lfsrQ = c.lfsrQ ∧ (bumpMod o lo w n c).lfsrHp = c.lfsrHp ∧ (bumpMod o lo w n c).mov = c.mov ∧ (bumpMod o lo w n c).lnd =
    c.lnd ∧ (bumpMod o lo w n c).srl = c.srl ∧ (bumpMod o lo w n c).prt = c.prt ∧ (bumpMod o lo w n c).pwr = c.pwr ∧ (bumpMod o lo w n
    c).lov = c.lov ∧ (bumpMod o lo w n c).dev = c.dev ∧ (bumpMod o lo w n c).region = c.region ∧ (bumpMod o lo w n c).tapIr = c.tapIr ∧
    (bumpMod o lo w n c).tap = c.tap ∧ (bumpMod o lo w n c).report = c.report ∧ (bumpMod o lo w n c).free = c.free :=
  modReg_frame o _ c

@[simp] theorem resetRegs_frame (lo hi : Nat) (keep : Nat → Bool) (c : Ctl) :
    (resetRegs lo hi keep c).part = c.part ∧ (resetRegs lo hi keep c).fuse = c.fuse ∧ (resetRegs lo hi keep c).pin = c.pin ∧ (resetRegs
    lo hi keep c).out = c.out ∧ (resetRegs lo hi keep c).edge = c.edge ∧ (resetRegs lo hi keep c).pc = c.pc ∧ (resetRegs lo hi keep
    c).rtc = c.rtc ∧ (resetRegs lo hi keep c).int = c.int ∧ (resetRegs lo hi keep c).evc = c.evc ∧ (resetRegs lo hi keep c).port =
    c.port ∧ (resetRegs lo hi keep c).grp = c.grp ∧ (resetRegs lo hi keep c).frPace = c.frPace ∧ (resetRegs lo hi keep c).chv = c.chv ∧
    (resetRegs lo hi keep c).lfsrPort = c.lfsrPort ∧ (resetRegs lo hi keep c).lfsrQ = c.lfsrQ ∧ (resetRegs lo hi keep c).lfsrHp =
    c.lfsrHp ∧ (resetRegs lo hi keep c).mov = c.mov ∧ (resetRegs lo hi keep c).lnd = c.lnd ∧ (resetRegs lo hi keep c).srl = c.srl ∧
    (resetRegs lo hi keep c).prt = c.prt ∧ (resetRegs lo hi keep c).pwr = c.pwr ∧ (resetRegs lo hi keep c).lov = c.lov ∧ (resetRegs lo
    hi keep c).dev = c.dev ∧ (resetRegs lo hi keep c).region = c.region ∧ (resetRegs lo hi keep c).tapIr = c.tapIr ∧ (resetRegs lo hi
    keep c).tap = c.tap ∧ (resetRegs lo hi keep c).report = c.report ∧ (resetRegs lo hi keep c).free = c.free := by
  unfold resetRegs
  exact ⟨rfl, rfl, rfl, rfl, rfl, rfl, rfl, rfl, rfl, rfl, rfl, rfl, rfl, rfl, rfl, rfl, rfl, rfl, rfl, rfl, rfl, rfl, rfl, rfl, rfl, rfl,
    rfl, rfl⟩

@[simp] theorem writeStored_frame (o : Nat) (v : Word) (c : Ctl) :
    (writeStored o v c).part = c.part ∧ (writeStored o v c).fuse = c.fuse ∧ (writeStored o v c).pin = c.pin ∧ (writeStored o v c).out =
    c.out ∧ (writeStored o v c).edge = c.edge ∧ (writeStored o v c).pc = c.pc ∧ (writeStored o v c).rtc = c.rtc ∧ (writeStored o v
    c).int = c.int ∧ (writeStored o v c).evc = c.evc ∧ (writeStored o v c).port = c.port ∧ (writeStored o v c).grp = c.grp ∧
    (writeStored o v c).frPace = c.frPace ∧ (writeStored o v c).chv = c.chv ∧ (writeStored o v c).lfsrPort = c.lfsrPort ∧ (writeStored o
    v c).lfsrQ = c.lfsrQ ∧ (writeStored o v c).lfsrHp = c.lfsrHp ∧ (writeStored o v c).mov = c.mov ∧ (writeStored o v c).lnd = c.lnd ∧
    (writeStored o v c).srl = c.srl ∧ (writeStored o v c).prt = c.prt ∧ (writeStored o v c).pwr = c.pwr ∧ (writeStored o v c).lov =
    c.lov ∧ (writeStored o v c).dev = c.dev ∧ (writeStored o v c).region = c.region ∧ (writeStored o v c).tapIr = c.tapIr ∧ (writeStored
    o v c).tap = c.tap ∧ (writeStored o v c).report = c.report ∧ (writeStored o v c).free = c.free :=
  setReg_frame o _ c

@[simp] theorem setCause_frame (n : Nat) (c : Ctl) :
    (setCause n c).part = c.part ∧ (setCause n c).fuse = c.fuse ∧ (setCause n c).pin = c.pin ∧ (setCause n c).out = c.out ∧ (setCause n
    c).edge = c.edge ∧ (setCause n c).pc = c.pc ∧ (setCause n c).rtc = c.rtc ∧ (setCause n c).int = c.int ∧ (setCause n c).evc = c.evc ∧
    (setCause n c).port = c.port ∧ (setCause n c).grp = c.grp ∧ (setCause n c).frPace = c.frPace ∧ (setCause n c).chv = c.chv ∧
    (setCause n c).lfsrPort = c.lfsrPort ∧ (setCause n c).lfsrQ = c.lfsrQ ∧ (setCause n c).lfsrHp = c.lfsrHp ∧ (setCause n c).mov =
    c.mov ∧ (setCause n c).lnd = c.lnd ∧ (setCause n c).srl = c.srl ∧ (setCause n c).prt = c.prt ∧ (setCause n c).pwr = c.pwr ∧
    (setCause n c).lov = c.lov ∧ (setCause n c).dev = c.dev ∧ (setCause n c).region = c.region ∧ (setCause n c).tapIr = c.tapIr ∧
    (setCause n c).tap = c.tap ∧ (setCause n c).report = c.report ∧ (setCause n c).free = c.free :=
  modReg_frame brlRstCause _ c

@[simp] theorem raiseInt_frame (n : Nat) (c : Ctl) :
    (raiseInt n c).part = c.part ∧ (raiseInt n c).fuse = c.fuse ∧ (raiseInt n c).pin = c.pin ∧ (raiseInt n c).out = c.out ∧ (raiseInt n
    c).edge = c.edge ∧ (raiseInt n c).pc = c.pc ∧ (raiseInt n c).rtc = c.rtc ∧ (raiseInt n c).regs = c.regs ∧ (raiseInt n c).evc = c.evc
    ∧ (raiseInt n c).port = c.port ∧ (raiseInt n c).grp = c.grp ∧ (raiseInt n c).frPace = c.frPace ∧ (raiseInt n c).chv = c.chv ∧
    (raiseInt n c).lfsrPort = c.lfsrPort ∧ (raiseInt n c).lfsrQ = c.lfsrQ ∧ (raiseInt n c).lfsrHp = c.lfsrHp ∧ (raiseInt n c).mov =
    c.mov ∧ (raiseInt n c).lnd = c.lnd ∧ (raiseInt n c).srl = c.srl ∧ (raiseInt n c).prt = c.prt ∧ (raiseInt n c).pwr = c.pwr ∧
    (raiseInt n c).lov = c.lov ∧ (raiseInt n c).dev = c.dev ∧ (raiseInt n c).region = c.region ∧ (raiseInt n c).tapIr = c.tapIr ∧
    (raiseInt n c).tap = c.tap ∧ (raiseInt n c).report = c.report ∧ (raiseInt n c).free = c.free ∧ (raiseInt n c).int.en = c.int.en ∧
    (raiseInt n c).int.map = c.int.map :=
  ⟨rfl, rfl, rfl, rfl, rfl, rfl, rfl, rfl, rfl, rfl, rfl, rfl, rfl, rfl, rfl, rfl, rfl, rfl, rfl, rfl, rfl, rfl, rfl, rfl, rfl, rfl, rfl,
    rfl, rfl, rfl⟩

@[simp] theorem token_frame (k n : Nat) (c : Ctl) :
    (token k n c).part = c.part ∧ (token k n c).fuse = c.fuse ∧ (token k n c).pin = c.pin ∧ (token k n c).out = c.out ∧ (token k n
    c).edge = c.edge ∧ (token k n c).pc = c.pc ∧ (token k n c).rtc = c.rtc ∧ (token k n c).regs = c.regs ∧ (token k n c).int = c.int ∧
    (token k n c).evc = c.evc ∧ (token k n c).port = c.port ∧ (token k n c).grp = c.grp ∧ (token k n c).frPace = c.frPace ∧ (token k n
    c).chv = c.chv ∧ (token k n c).lfsrPort = c.lfsrPort ∧ (token k n c).lfsrQ = c.lfsrQ ∧ (token k n c).lfsrHp = c.lfsrHp ∧ (token k n
    c).mov = c.mov ∧ (token k n c).lnd = c.lnd ∧ (token k n c).srl = c.srl ∧ (token k n c).prt = c.prt ∧ (token k n c).pwr = c.pwr ∧
    (token k n c).dev = c.dev ∧ (token k n c).region = c.region ∧ (token k n c).tapIr = c.tapIr ∧ (token k n c).tap = c.tap ∧ (token k n
    c).report = c.report ∧ (token k n c).free = c.free ∧ (token k n c).lov.env = c.lov.env ∧ (token k n c).lov.quiet = c.lov.quiet ∧
    (token k n c).lov.wait = c.lov.wait ∧ (token k n c).lov.plan = c.lov.plan ∧ (token k n c).lov.scrub = c.lov.scrub ∧ (token k n
    c).lov.act = c.lov.act ∧ (token k n c).lov.est = c.lov.est ∧ (token k n c).lov.held = c.lov.held ∧ (token k n c).lov.paced =
    c.lov.paced ∧ (token k n c).lov.want = c.lov.want ∧ (token k n c).lov.spent = c.lov.spent ∧ (token k n c).lov.share = c.lov.share ∧
    (token k n c).lov.room = c.lov.room ∧ (token k n c).lov.waits = c.lov.waits ∧ (token k n c).lov.hot = c.lov.hot ∧
    (token k n c).lov.extra = c.lov.extra ∧ (token k n
    c).lov.short = c.lov.short ∧ (token k n c).lov.carry = c.lov.carry :=
  ⟨rfl, rfl, rfl, rfl, rfl, rfl, rfl, rfl, rfl, rfl, rfl, rfl, rfl, rfl, rfl, rfl, rfl, rfl, rfl, rfl, rfl, rfl, rfl, rfl, rfl, rfl, rfl,
    rfl, rfl, rfl, rfl, rfl, rfl, rfl, rfl, rfl, rfl, rfl, rfl, rfl, rfl, rfl, rfl, rfl, rfl, rfl⟩

@[simp] theorem setChv_frame (z : Nat) (v : Chv) (c : Ctl) :
    (setChv z v c).part = c.part ∧ (setChv z v c).fuse = c.fuse ∧ (setChv z v c).pin = c.pin ∧ (setChv z v c).out = c.out ∧ (setChv z v
    c).edge = c.edge ∧ (setChv z v c).pc = c.pc ∧ (setChv z v c).rtc = c.rtc ∧ (setChv z v c).regs = c.regs ∧ (setChv z v c).int = c.int
    ∧ (setChv z v c).evc = c.evc ∧ (setChv z v c).port = c.port ∧ (setChv z v c).grp = c.grp ∧ (setChv z v c).frPace = c.frPace ∧
    (setChv z v c).lfsrPort = c.lfsrPort ∧ (setChv z v c).lfsrQ = c.lfsrQ ∧ (setChv z v c).lfsrHp = c.lfsrHp ∧ (setChv z v c).mov =
    c.mov ∧ (setChv z v c).lnd = c.lnd ∧ (setChv z v c).srl = c.srl ∧ (setChv z v c).prt = c.prt ∧ (setChv z v c).pwr = c.pwr ∧ (setChv
    z v c).lov = c.lov ∧ (setChv z v c).dev = c.dev ∧ (setChv z v c).region = c.region ∧ (setChv z v c).tapIr = c.tapIr ∧ (setChv z v
    c).tap = c.tap ∧ (setChv z v c).report = c.report ∧ (setChv z v c).free = c.free :=
  ⟨rfl, rfl, rfl, rfl, rfl, rfl, rfl, rfl, rfl, rfl, rfl, rfl, rfl, rfl, rfl, rfl, rfl, rfl, rfl, rfl, rfl, rfl, rfl, rfl, rfl, rfl, rfl,
    rfl⟩

@[simp] theorem setGrp_frame (g : Nat) (v : Grp) (c : Ctl) :
    (setGrp g v c).part = c.part ∧ (setGrp g v c).fuse = c.fuse ∧ (setGrp g v c).pin = c.pin ∧ (setGrp g v c).out = c.out ∧ (setGrp g v
    c).edge = c.edge ∧ (setGrp g v c).pc = c.pc ∧ (setGrp g v c).rtc = c.rtc ∧ (setGrp g v c).regs = c.regs ∧ (setGrp g v c).int = c.int
    ∧ (setGrp g v c).evc = c.evc ∧ (setGrp g v c).port = c.port ∧ (setGrp g v c).frPace = c.frPace ∧ (setGrp g v c).chv = c.chv ∧
    (setGrp g v c).lfsrPort = c.lfsrPort ∧ (setGrp g v c).lfsrQ = c.lfsrQ ∧ (setGrp g v c).lfsrHp = c.lfsrHp ∧ (setGrp g v c).mov =
    c.mov ∧ (setGrp g v c).lnd = c.lnd ∧ (setGrp g v c).srl = c.srl ∧ (setGrp g v c).prt = c.prt ∧ (setGrp g v c).pwr = c.pwr ∧ (setGrp
    g v c).lov = c.lov ∧ (setGrp g v c).dev = c.dev ∧ (setGrp g v c).region = c.region ∧ (setGrp g v c).tapIr = c.tapIr ∧ (setGrp g v
    c).tap = c.tap ∧ (setGrp g v c).report = c.report ∧ (setGrp g v c).free = c.free :=
  ⟨rfl, rfl, rfl, rfl, rfl, rfl, rfl, rfl, rfl, rfl, rfl, rfl, rfl, rfl, rfl, rfl, rfl, rfl, rfl, rfl, rfl, rfl, rfl, rfl, rfl, rfl, rfl,
    rfl⟩

@[simp] theorem setQueue_frame (q : Nat) (v : Queue) (c : Ctl) :
    (setQueue q v c).part = c.part ∧ (setQueue q v c).fuse = c.fuse ∧ (setQueue q v c).pin = c.pin ∧ (setQueue q v c).out = c.out ∧
    (setQueue q v c).edge = c.edge ∧ (setQueue q v c).pc = c.pc ∧ (setQueue q v c).rtc = c.rtc ∧ (setQueue q v c).regs = c.regs ∧
    (setQueue q v c).int = c.int ∧ (setQueue q v c).evc = c.evc ∧ (setQueue q v c).port = c.port ∧ (setQueue q v c).grp = c.grp ∧
    (setQueue q v c).frPace = c.frPace ∧ (setQueue q v c).chv = c.chv ∧ (setQueue q v c).lfsrPort = c.lfsrPort ∧ (setQueue q v c).lfsrQ
    = c.lfsrQ ∧ (setQueue q v c).lfsrHp = c.lfsrHp ∧ (setQueue q v c).lnd = c.lnd ∧ (setQueue q v c).srl = c.srl ∧ (setQueue q v c).prt
    = c.prt ∧ (setQueue q v c).pwr = c.pwr ∧ (setQueue q v c).lov = c.lov ∧ (setQueue q v c).dev = c.dev ∧ (setQueue q v c).region =
    c.region ∧ (setQueue q v c).tapIr = c.tapIr ∧ (setQueue q v c).tap = c.tap ∧ (setQueue q v c).report = c.report ∧ (setQueue q v
    c).free = c.free ∧ (setQueue q v c).mov.rr = c.mov.rr ∧ (setQueue q v c).mov.sa = c.mov.sa ∧ (setQueue q v c).mov.saBeats =
    c.mov.saBeats ∧ (setQueue q v c).mov.td = c.mov.td ∧ (setQueue q v c).mov.lpCredit = c.mov.lpCredit ∧ (setQueue q v c).mov.lpGiven =
    c.mov.lpGiven ∧ (setQueue q v c).mov.hotSince = c.mov.hotSince ∧ (setQueue q v c).mov.sqIdle = c.mov.sqIdle ∧ (setQueue q v
    c).mov.lpOwed = c.mov.lpOwed ∧ (setQueue q v c).mov.saCredit = c.mov.saCredit ∧ (setQueue q v c).mov.paceNow = c.mov.paceNow ∧
    (setQueue q v c).mov.sqNow = c.mov.sqNow ∧ (setQueue q v c).mov.saOwed = c.mov.saOwed ∧ (setQueue q v c).mov.wd = c.mov.wd :=
  ⟨rfl, rfl, rfl, rfl, rfl, rfl, rfl, rfl, rfl, rfl, rfl, rfl, rfl, rfl, rfl, rfl, rfl, rfl, rfl, rfl, rfl, rfl, rfl, rfl, rfl, rfl, rfl,
    rfl, rfl, rfl, rfl, rfl, rfl, rfl, rfl, rfl, rfl, rfl, rfl, rfl, rfl, rfl⟩

@[simp] theorem saDrop_frame (x : SaReq) (c : Ctl) :
    (saDrop x c).part = c.part ∧ (saDrop x c).fuse = c.fuse ∧ (saDrop x c).pin = c.pin ∧ (saDrop x c).out = c.out ∧ (saDrop x c).edge =
    c.edge ∧ (saDrop x c).pc = c.pc ∧ (saDrop x c).rtc = c.rtc ∧ (saDrop x c).regs = c.regs ∧ (saDrop x c).int = c.int ∧ (saDrop x
    c).evc = c.evc ∧ (saDrop x c).port = c.port ∧ (saDrop x c).grp = c.grp ∧ (saDrop x c).frPace = c.frPace ∧ (saDrop x c).chv = c.chv ∧
    (saDrop x c).lfsrPort = c.lfsrPort ∧ (saDrop x c).lfsrQ = c.lfsrQ ∧ (saDrop x c).lfsrHp = c.lfsrHp ∧ (saDrop x c).lnd = c.lnd ∧
    (saDrop x c).srl = c.srl ∧ (saDrop x c).prt = c.prt ∧ (saDrop x c).pwr = c.pwr ∧ (saDrop x c).lov = c.lov ∧ (saDrop x c).dev = c.dev
    ∧ (saDrop x c).region = c.region ∧ (saDrop x c).tapIr = c.tapIr ∧ (saDrop x c).tap = c.tap ∧ (saDrop x c).report = c.report ∧
    (saDrop x c).free = c.free ∧ (saDrop x c).mov.q = c.mov.q ∧ (saDrop x c).mov.rr = c.mov.rr ∧ (saDrop x c).mov.saBeats =
    c.mov.saBeats ∧ (saDrop x c).mov.td = c.mov.td ∧ (saDrop x c).mov.lpCredit = c.mov.lpCredit ∧ (saDrop x c).mov.lpGiven =
    c.mov.lpGiven ∧ (saDrop x c).mov.hotSince = c.mov.hotSince ∧ (saDrop x c).mov.sqIdle = c.mov.sqIdle ∧ (saDrop x c).mov.lpOwed =
    c.mov.lpOwed ∧ (saDrop x c).mov.saCredit = c.mov.saCredit ∧ (saDrop x c).mov.paceNow = c.mov.paceNow ∧ (saDrop x c).mov.sqNow =
    c.mov.sqNow ∧ (saDrop x c).mov.saOwed = c.mov.saOwed ∧ (saDrop x c).mov.wd = c.mov.wd :=
  ⟨rfl, rfl, rfl, rfl, rfl, rfl, rfl, rfl, rfl, rfl, rfl, rfl, rfl, rfl, rfl, rfl, rfl, rfl, rfl, rfl, rfl, rfl, rfl, rfl, rfl, rfl, rfl,
    rfl, rfl, rfl, rfl, rfl, rfl, rfl, rfl, rfl, rfl, rfl, rfl, rfl, rfl, rfl⟩

@[simp] theorem setWin_frame (w : Nat) (v : Win) (c : Ctl) :
    (setWin w v c).part = c.part ∧ (setWin w v c).fuse = c.fuse ∧ (setWin w v c).pin = c.pin ∧ (setWin w v c).out = c.out ∧ (setWin w v
    c).edge = c.edge ∧ (setWin w v c).pc = c.pc ∧ (setWin w v c).rtc = c.rtc ∧ (setWin w v c).regs = c.regs ∧ (setWin w v c).int = c.int
    ∧ (setWin w v c).evc = c.evc ∧ (setWin w v c).port = c.port ∧ (setWin w v c).grp = c.grp ∧ (setWin w v c).frPace = c.frPace ∧
    (setWin w v c).chv = c.chv ∧ (setWin w v c).lfsrPort = c.lfsrPort ∧ (setWin w v c).lfsrQ = c.lfsrQ ∧ (setWin w v c).lfsrHp =
    c.lfsrHp ∧ (setWin w v c).mov = c.mov ∧ (setWin w v c).srl = c.srl ∧ (setWin w v c).prt = c.prt ∧ (setWin w v c).pwr = c.pwr ∧
    (setWin w v c).lov = c.lov ∧ (setWin w v c).dev = c.dev ∧ (setWin w v c).region = c.region ∧ (setWin w v c).tapIr = c.tapIr ∧
    (setWin w v c).tap = c.tap ∧ (setWin w v c).report = c.report ∧ (setWin w v c).free = c.free ∧ (setWin w v c).lnd.land = c.lnd.land
    ∧ (setWin w v c).lnd.next = c.lnd.next ∧ (setWin w v c).lnd.inbox = c.lnd.inbox :=
  ⟨rfl, rfl, rfl, rfl, rfl, rfl, rfl, rfl, rfl, rfl, rfl, rfl, rfl, rfl, rfl, rfl, rfl, rfl, rfl, rfl, rfl, rfl, rfl, rfl, rfl, rfl, rfl,
    rfl, rfl, rfl, rfl⟩

@[simp] theorem dropLand_frame (k : Nat) (c : Ctl) :
    (dropLand k c).part = c.part ∧ (dropLand k c).fuse = c.fuse ∧ (dropLand k c).pin = c.pin ∧ (dropLand k c).out = c.out ∧ (dropLand k
    c).edge = c.edge ∧ (dropLand k c).pc = c.pc ∧ (dropLand k c).rtc = c.rtc ∧ (dropLand k c).regs = c.regs ∧ (dropLand k c).int = c.int
    ∧ (dropLand k c).evc = c.evc ∧ (dropLand k c).port = c.port ∧ (dropLand k c).grp = c.grp ∧ (dropLand k c).frPace = c.frPace ∧
    (dropLand k c).chv = c.chv ∧ (dropLand k c).lfsrPort = c.lfsrPort ∧ (dropLand k c).lfsrQ = c.lfsrQ ∧ (dropLand k c).lfsrHp =
    c.lfsrHp ∧ (dropLand k c).mov = c.mov ∧ (dropLand k c).srl = c.srl ∧ (dropLand k c).prt = c.prt ∧ (dropLand k c).pwr = c.pwr ∧
    (dropLand k c).lov = c.lov ∧ (dropLand k c).dev = c.dev ∧ (dropLand k c).region = c.region ∧ (dropLand k c).tapIr = c.tapIr ∧
    (dropLand k c).tap = c.tap ∧ (dropLand k c).report = c.report ∧ (dropLand k c).free = c.free ∧ (dropLand k c).lnd.win = c.lnd.win ∧
    (dropLand k c).lnd.next = c.lnd.next ∧ (dropLand k c).lnd.inbox = c.lnd.inbox :=
  ⟨rfl, rfl, rfl, rfl, rfl, rfl, rfl, rfl, rfl, rfl, rfl, rfl, rfl, rfl, rfl, rfl, rfl, rfl, rfl, rfl, rfl, rfl, rfl, rfl, rfl, rfl, rfl,
    rfl, rfl, rfl, rfl⟩

@[simp] theorem setBar_frame (n : Nat) (b : Barrier) (c : Ctl) :
    (setBar n b c).part = c.part ∧ (setBar n b c).fuse = c.fuse ∧ (setBar n b c).pin = c.pin ∧ (setBar n b c).out = c.out ∧ (setBar n b
    c).edge = c.edge ∧ (setBar n b c).pc = c.pc ∧ (setBar n b c).rtc = c.rtc ∧ (setBar n b c).regs = c.regs ∧ (setBar n b c).int = c.int
    ∧ (setBar n b c).evc = c.evc ∧ (setBar n b c).port = c.port ∧ (setBar n b c).grp = c.grp ∧ (setBar n b c).frPace = c.frPace ∧
    (setBar n b c).chv = c.chv ∧ (setBar n b c).lfsrPort = c.lfsrPort ∧ (setBar n b c).lfsrQ = c.lfsrQ ∧ (setBar n b c).lfsrHp =
    c.lfsrHp ∧ (setBar n b c).mov = c.mov ∧ (setBar n b c).lnd = c.lnd ∧ (setBar n b c).prt = c.prt ∧ (setBar n b c).pwr = c.pwr ∧
    (setBar n b c).lov = c.lov ∧ (setBar n b c).dev = c.dev ∧ (setBar n b c).region = c.region ∧ (setBar n b c).tapIr = c.tapIr ∧
    (setBar n b c).tap = c.tap ∧ (setBar n b c).report = c.report ∧ (setBar n b c).free = c.free ∧ (setBar n b c).srl.wt = c.srl.wt ∧
    (setBar n b c).srl.qw = c.srl.qw ∧ (setBar n b c).srl.rel = c.srl.rel ∧ (setBar n b c).srl.lock = c.srl.lock ∧ (setBar n b
    c).srl.mbx = c.srl.mbx ∧ (setBar n b c).srl.dead = c.srl.dead ∧ (setBar n b c).srl.upset = c.srl.upset ∧ (setBar n b c).srl.dump = c.srl.dump ∧ (setBar n b c).srl.tok =
    c.srl.tok :=
  ⟨rfl, rfl, rfl, rfl, rfl, rfl, rfl, rfl, rfl, rfl, rfl, rfl, rfl, rfl, rfl, rfl, rfl, rfl, rfl, rfl, rfl, rfl, rfl, rfl, rfl, rfl, rfl, rfl,
    rfl, rfl, rfl, rfl, rfl, rfl, rfl, rfl, rfl⟩

@[simp] theorem pushRel_frame (k : RelKind) (tok : Option Nat) (c : Ctl) :
    (pushRel k tok c).part = c.part ∧ (pushRel k tok c).fuse = c.fuse ∧ (pushRel k tok c).pin = c.pin ∧ (pushRel k tok c).out = c.out ∧
    (pushRel k tok c).edge = c.edge ∧ (pushRel k tok c).pc = c.pc ∧ (pushRel k tok c).rtc = c.rtc ∧ (pushRel k tok c).regs = c.regs ∧
    (pushRel k tok c).int = c.int ∧ (pushRel k tok c).evc = c.evc ∧ (pushRel k tok c).port = c.port ∧ (pushRel k tok c).grp = c.grp ∧
    (pushRel k tok c).frPace = c.frPace ∧ (pushRel k tok c).chv = c.chv ∧ (pushRel k tok c).lfsrPort = c.lfsrPort ∧ (pushRel k tok
    c).lfsrQ = c.lfsrQ ∧ (pushRel k tok c).lfsrHp = c.lfsrHp ∧ (pushRel k tok c).mov = c.mov ∧ (pushRel k tok c).lnd = c.lnd ∧ (pushRel
    k tok c).prt = c.prt ∧ (pushRel k tok c).pwr = c.pwr ∧ (pushRel k tok c).lov = c.lov ∧ (pushRel k tok c).dev = c.dev ∧ (pushRel k
    tok c).region = c.region ∧ (pushRel k tok c).tapIr = c.tapIr ∧ (pushRel k tok c).tap = c.tap ∧ (pushRel k tok c).report = c.report ∧
    (pushRel k tok c).free = c.free ∧ (pushRel k tok c).srl.bar = c.srl.bar ∧ (pushRel k tok c).srl.wt = c.srl.wt ∧ (pushRel k tok
    c).srl.qw = c.srl.qw ∧ (pushRel k tok c).srl.lock = c.srl.lock ∧ (pushRel k tok c).srl.mbx = c.srl.mbx ∧ (pushRel k tok c).srl.dead
    = c.srl.dead ∧ (pushRel k tok c).srl.upset = c.srl.upset ∧ (pushRel k tok c).srl.dump = c.srl.dump ∧ (pushRel k tok c).srl.tok = c.srl.tok :=
  ⟨rfl, rfl, rfl, rfl, rfl, rfl, rfl, rfl, rfl, rfl, rfl, rfl, rfl, rfl, rfl, rfl, rfl, rfl, rfl, rfl, rfl, rfl, rfl, rfl, rfl, rfl, rfl, rfl,
    rfl, rfl, rfl, rfl, rfl, rfl, rfl, rfl, rfl⟩

@[simp] theorem setChan_frame (k : Nat) (v : Chan) (c : Ctl) :
    (setChan k v c).part = c.part ∧ (setChan k v c).fuse = c.fuse ∧ (setChan k v c).pin = c.pin ∧ (setChan k v c).out = c.out ∧ (setChan
    k v c).edge = c.edge ∧ (setChan k v c).pc = c.pc ∧ (setChan k v c).rtc = c.rtc ∧ (setChan k v c).regs = c.regs ∧ (setChan k v c).int
    = c.int ∧ (setChan k v c).evc = c.evc ∧ (setChan k v c).port = c.port ∧ (setChan k v c).grp = c.grp ∧ (setChan k v c).frPace =
    c.frPace ∧ (setChan k v c).chv = c.chv ∧ (setChan k v c).lfsrPort = c.lfsrPort ∧ (setChan k v c).lfsrQ = c.lfsrQ ∧ (setChan k v
    c).lfsrHp = c.lfsrHp ∧ (setChan k v c).mov = c.mov ∧ (setChan k v c).lnd = c.lnd ∧ (setChan k v c).prt = c.prt ∧ (setChan k v c).pwr
    = c.pwr ∧ (setChan k v c).lov = c.lov ∧ (setChan k v c).dev = c.dev ∧ (setChan k v c).region = c.region ∧ (setChan k v c).tapIr =
    c.tapIr ∧ (setChan k v c).tap = c.tap ∧ (setChan k v c).report = c.report ∧ (setChan k v c).free = c.free ∧ (setChan k v c).srl.bar
    = c.srl.bar ∧ (setChan k v c).srl.wt = c.srl.wt ∧ (setChan k v c).srl.qw = c.srl.qw ∧ (setChan k v c).srl.rel = c.srl.rel ∧ (setChan
    k v c).srl.lock = c.srl.lock ∧ (setChan k v c).srl.dead = c.srl.dead ∧ (setChan k v c).srl.upset = c.srl.upset ∧ (setChan k v c).srl.dump = c.srl.dump ∧ (setChan k v
    c).srl.tok = c.srl.tok :=
  ⟨rfl, rfl, rfl, rfl, rfl, rfl, rfl, rfl, rfl, rfl, rfl, rfl, rfl, rfl, rfl, rfl, rfl, rfl, rfl, rfl, rfl, rfl, rfl, rfl, rfl, rfl, rfl, rfl,
    rfl, rfl, rfl, rfl, rfl, rfl, rfl, rfl, rfl⟩

@[simp] theorem setLane_frame (p t : Nat) (v : Lane) (c : Ctl) :
    (setLane p t v c).part = c.part ∧ (setLane p t v c).fuse = c.fuse ∧ (setLane p t v c).pin = c.pin ∧ (setLane p t v c).out = c.out ∧
    (setLane p t v c).edge = c.edge ∧ (setLane p t v c).pc = c.pc ∧ (setLane p t v c).rtc = c.rtc ∧ (setLane p t v c).regs = c.regs ∧
    (setLane p t v c).int = c.int ∧ (setLane p t v c).evc = c.evc ∧ (setLane p t v c).port = c.port ∧ (setLane p t v c).grp = c.grp ∧
    (setLane p t v c).frPace = c.frPace ∧ (setLane p t v c).chv = c.chv ∧ (setLane p t v c).lfsrPort = c.lfsrPort ∧ (setLane p t v
    c).lfsrQ = c.lfsrQ ∧ (setLane p t v c).lfsrHp = c.lfsrHp ∧ (setLane p t v c).mov = c.mov ∧ (setLane p t v c).lnd = c.lnd ∧ (setLane
    p t v c).srl = c.srl ∧ (setLane p t v c).pwr = c.pwr ∧ (setLane p t v c).lov = c.lov ∧ (setLane p t v c).dev = c.dev ∧ (setLane p t
    v c).region = c.region ∧ (setLane p t v c).tapIr = c.tapIr ∧ (setLane p t v c).tap = c.tap ∧ (setLane p t v c).report = c.report ∧
    (setLane p t v c).free = c.free ∧ (setLane p t v c).prt.cap = c.prt.cap ∧ (setLane p t v c).prt.logLast = c.prt.logLast ∧ (setLane p
    t v c).prt.scrub = c.prt.scrub ∧ (setLane p t v c).prt.scrubDone = c.prt.scrubDone ∧ (setLane p t v c).prt.passStart =
    c.prt.passStart ∧ (setLane p t v c).prt.hour = c.prt.hour ∧ (setLane p t v c).prt.hourStart = c.prt.hourStart ∧ (setLane p t v
    c).prt.mig = c.prt.mig ∧ (setLane p t v c).prt.moved = c.prt.moved ∧ (setLane p t v c).prt.retired = c.prt.retired ∧ (setLane p t v
    c).prt.retLog = c.prt.retLog ∧ (setLane p t v c).prt.badCommitted = c.prt.badCommitted ∧ (setLane p t v c).prt.badMig = c.prt.badMig
    ∧ (setLane p t v c).prt.pendingBad = c.prt.pendingBad ∧ (setLane p t v c).prt.acien = c.prt.acien ∧
    (setLane p t v c).prt.region = c.prt.region ∧
    (setLane p t v c).prt.tagWait = c.prt.tagWait :=
  ⟨rfl, rfl, rfl, rfl, rfl, rfl, rfl, rfl, rfl, rfl, rfl, rfl, rfl, rfl, rfl, rfl, rfl, rfl, rfl, rfl, rfl, rfl, rfl, rfl, rfl, rfl, rfl,
    rfl, rfl, rfl, rfl, rfl, rfl, rfl, rfl, rfl, rfl, rfl, rfl, rfl, rfl, rfl, rfl, rfl, rfl⟩

@[simp] theorem setScrub_frame (p : Nat) (x : Scrub) (c : Ctl) :
    (setScrub p x c).part = c.part ∧ (setScrub p x c).fuse = c.fuse ∧ (setScrub p x c).pin = c.pin ∧ (setScrub p x c).out = c.out ∧
    (setScrub p x c).edge = c.edge ∧ (setScrub p x c).pc = c.pc ∧ (setScrub p x c).rtc = c.rtc ∧ (setScrub p x c).regs = c.regs ∧
    (setScrub p x c).int = c.int ∧ (setScrub p x c).evc = c.evc ∧ (setScrub p x c).port = c.port ∧ (setScrub p x c).grp = c.grp ∧
    (setScrub p x c).frPace = c.frPace ∧ (setScrub p x c).chv = c.chv ∧ (setScrub p x c).lfsrPort = c.lfsrPort ∧ (setScrub p x c).lfsrQ
    = c.lfsrQ ∧ (setScrub p x c).lfsrHp = c.lfsrHp ∧ (setScrub p x c).mov = c.mov ∧ (setScrub p x c).lnd = c.lnd ∧ (setScrub p x c).srl
    = c.srl ∧ (setScrub p x c).pwr = c.pwr ∧ (setScrub p x c).lov = c.lov ∧ (setScrub p x c).dev = c.dev ∧ (setScrub p x c).region =
    c.region ∧ (setScrub p x c).tapIr = c.tapIr ∧ (setScrub p x c).tap = c.tap ∧ (setScrub p x c).report = c.report ∧ (setScrub p x
    c).free = c.free ∧ (setScrub p x c).prt.cap = c.prt.cap ∧ (setScrub p x c).prt.logLast = c.prt.logLast ∧ (setScrub p x c).prt.lane =
    c.prt.lane ∧ (setScrub p x c).prt.scrubDone = c.prt.scrubDone ∧ (setScrub p x c).prt.passStart = c.prt.passStart ∧ (setScrub p x
    c).prt.hour = c.prt.hour ∧ (setScrub p x c).prt.hourStart = c.prt.hourStart ∧ (setScrub p x c).prt.mig = c.prt.mig ∧ (setScrub p x
    c).prt.moved = c.prt.moved ∧ (setScrub p x c).prt.retired = c.prt.retired ∧ (setScrub p x c).prt.retLog = c.prt.retLog ∧ (setScrub p
    x c).prt.badCommitted = c.prt.badCommitted ∧ (setScrub p x c).prt.badMig = c.prt.badMig ∧ (setScrub p x c).prt.pendingBad =
    c.prt.pendingBad ∧ (setScrub p x c).prt.acien = c.prt.acien ∧
    (setScrub p x c).prt.region = c.prt.region ∧
    (setScrub p x c).prt.tagWait = c.prt.tagWait :=
  ⟨rfl, rfl, rfl, rfl, rfl, rfl, rfl, rfl, rfl, rfl, rfl, rfl, rfl, rfl, rfl, rfl, rfl, rfl, rfl, rfl, rfl, rfl, rfl, rfl, rfl, rfl, rfl,
    rfl, rfl, rfl, rfl, rfl, rfl, rfl, rfl, rfl, rfl, rfl, rfl, rfl, rfl, rfl, rfl, rfl, rfl⟩

@[simp] theorem setMig_frame (z : Nat) (m : Mig) (c : Ctl) :
    (setMig z m c).part = c.part ∧ (setMig z m c).fuse = c.fuse ∧ (setMig z m c).pin = c.pin ∧ (setMig z m c).out = c.out ∧ (setMig z m
    c).edge = c.edge ∧ (setMig z m c).pc = c.pc ∧ (setMig z m c).rtc = c.rtc ∧ (setMig z m c).regs = c.regs ∧ (setMig z m c).int = c.int
    ∧ (setMig z m c).evc = c.evc ∧ (setMig z m c).port = c.port ∧ (setMig z m c).grp = c.grp ∧ (setMig z m c).frPace = c.frPace ∧
    (setMig z m c).chv = c.chv ∧ (setMig z m c).lfsrPort = c.lfsrPort ∧ (setMig z m c).lfsrQ = c.lfsrQ ∧ (setMig z m c).lfsrHp =
    c.lfsrHp ∧ (setMig z m c).mov = c.mov ∧ (setMig z m c).lnd = c.lnd ∧ (setMig z m c).srl = c.srl ∧ (setMig z m c).pwr = c.pwr ∧
    (setMig z m c).lov = c.lov ∧ (setMig z m c).dev = c.dev ∧ (setMig z m c).region = c.region ∧ (setMig z m c).tapIr = c.tapIr ∧
    (setMig z m c).tap = c.tap ∧ (setMig z m c).report = c.report ∧ (setMig z m c).free = c.free ∧ (setMig z m c).prt.cap = c.prt.cap ∧
    (setMig z m c).prt.logLast = c.prt.logLast ∧ (setMig z m c).prt.lane = c.prt.lane ∧ (setMig z m c).prt.scrub = c.prt.scrub ∧ (setMig
    z m c).prt.scrubDone = c.prt.scrubDone ∧ (setMig z m c).prt.passStart = c.prt.passStart ∧ (setMig z m c).prt.hour = c.prt.hour ∧
    (setMig z m c).prt.hourStart = c.prt.hourStart ∧ (setMig z m c).prt.moved = c.prt.moved ∧ (setMig z m c).prt.retired = c.prt.retired
    ∧ (setMig z m c).prt.retLog = c.prt.retLog ∧ (setMig z m c).prt.badCommitted = c.prt.badCommitted ∧ (setMig z m c).prt.badMig =
    c.prt.badMig ∧ (setMig z m c).prt.pendingBad = c.prt.pendingBad ∧ (setMig z m c).prt.acien = c.prt.acien ∧
    (setMig z m c).prt.region = c.prt.region ∧
    (setMig z m c).prt.tagWait = c.prt.tagWait :=
  ⟨rfl, rfl, rfl, rfl, rfl, rfl, rfl, rfl, rfl, rfl, rfl, rfl, rfl, rfl, rfl, rfl, rfl, rfl, rfl, rfl, rfl, rfl, rfl, rfl, rfl, rfl, rfl,
    rfl, rfl, rfl, rfl, rfl, rfl, rfl, rfl, rfl, rfl, rfl, rfl, rfl, rfl, rfl, rfl, rfl, rfl⟩

@[simp] theorem bumpHour_frame (l : Nat) (ue : Bool) (c : Ctl) :
    (bumpHour l ue c).part = c.part ∧ (bumpHour l ue c).fuse = c.fuse ∧ (bumpHour l ue c).pin = c.pin ∧ (bumpHour l ue c).out = c.out ∧
    (bumpHour l ue c).edge = c.edge ∧ (bumpHour l ue c).pc = c.pc ∧ (bumpHour l ue c).rtc = c.rtc ∧ (bumpHour l ue c).regs = c.regs ∧
    (bumpHour l ue c).int = c.int ∧ (bumpHour l ue c).evc = c.evc ∧ (bumpHour l ue c).port = c.port ∧ (bumpHour l ue c).grp = c.grp ∧
    (bumpHour l ue c).frPace = c.frPace ∧ (bumpHour l ue c).chv = c.chv ∧ (bumpHour l ue c).lfsrPort = c.lfsrPort ∧ (bumpHour l ue
    c).lfsrQ = c.lfsrQ ∧ (bumpHour l ue c).lfsrHp = c.lfsrHp ∧ (bumpHour l ue c).mov = c.mov ∧ (bumpHour l ue c).lnd = c.lnd ∧ (bumpHour
    l ue c).srl = c.srl ∧ (bumpHour l ue c).pwr = c.pwr ∧ (bumpHour l ue c).lov = c.lov ∧ (bumpHour l ue c).dev = c.dev ∧ (bumpHour l ue
    c).region = c.region ∧ (bumpHour l ue c).tapIr = c.tapIr ∧ (bumpHour l ue c).tap = c.tap ∧ (bumpHour l ue c).report = c.report ∧
    (bumpHour l ue c).free = c.free ∧ (bumpHour l ue c).prt.cap = c.prt.cap ∧ (bumpHour l ue c).prt.logLast = c.prt.logLast ∧ (bumpHour
    l ue c).prt.lane = c.prt.lane ∧ (bumpHour l ue c).prt.scrub = c.prt.scrub ∧ (bumpHour l ue c).prt.scrubDone = c.prt.scrubDone ∧
    (bumpHour l ue c).prt.passStart = c.prt.passStart ∧ (bumpHour l ue c).prt.mig = c.prt.mig ∧ (bumpHour l ue c).prt.moved =
    c.prt.moved ∧ (bumpHour l ue c).prt.retired = c.prt.retired ∧ (bumpHour l ue c).prt.retLog = c.prt.retLog ∧ (bumpHour l ue
    c).prt.badCommitted = c.prt.badCommitted ∧ (bumpHour l ue c).prt.badMig = c.prt.badMig ∧ (bumpHour l ue c).prt.pendingBad =
    c.prt.pendingBad ∧ (bumpHour l ue c).prt.acien = c.prt.acien ∧
    (bumpHour l ue c).prt.region = c.prt.region ∧
    (bumpHour l ue c).prt.tagWait = c.prt.tagWait :=
  ⟨rfl, rfl, rfl, rfl, rfl, rfl, rfl, rfl, rfl, rfl, rfl, rfl, rfl, rfl, rfl, rfl, rfl, rfl, rfl, rfl, rfl, rfl, rfl, rfl, rfl, rfl, rfl,
    rfl, rfl, rfl, rfl, rfl, rfl, rfl, rfl, rfl, rfl, rfl, rfl, rfl, rfl, rfl, rfl, rfl⟩

@[simp] theorem setBank_frame (p b : Nat) (v : Bank) (c : Ctl) :
    (setBank p b v c).part = c.part ∧ (setBank p b v c).fuse = c.fuse ∧ (setBank p b v c).pin = c.pin ∧ (setBank p b v c).out = c.out ∧
    (setBank p b v c).edge = c.edge ∧ (setBank p b v c).pc = c.pc ∧ (setBank p b v c).rtc = c.rtc ∧ (setBank p b v c).regs = c.regs ∧
    (setBank p b v c).int = c.int ∧ (setBank p b v c).evc = c.evc ∧ (setBank p b v c).port = c.port ∧ (setBank p b v c).grp = c.grp ∧
    (setBank p b v c).frPace = c.frPace ∧ (setBank p b v c).chv = c.chv ∧ (setBank p b v c).lfsrPort = c.lfsrPort ∧ (setBank p b v
    c).lfsrQ = c.lfsrQ ∧ (setBank p b v c).lfsrHp = c.lfsrHp ∧ (setBank p b v c).mov = c.mov ∧ (setBank p b v c).lnd = c.lnd ∧ (setBank
    p b v c).srl = c.srl ∧ (setBank p b v c).prt = c.prt ∧ (setBank p b v c).lov = c.lov ∧ (setBank p b v c).dev = c.dev ∧ (setBank p b
    v c).region = c.region ∧ (setBank p b v c).tapIr = c.tapIr ∧ (setBank p b v c).tap = c.tap ∧ (setBank p b v c).report = c.report ∧
    (setBank p b v c).free = c.free ∧ (setBank p b v c).pwr.freeze = c.pwr.freeze ∧ (setBank p b v c).pwr.okSinceA = c.pwr.okSinceA ∧
    (setBank p b v c).pwr.okSinceB = c.pwr.okSinceB ∧ (setBank p b v c).pwr.entry = c.pwr.entry ∧ (setBank p b v c).pwr.moves =
    c.pwr.moves ∧ (setBank p b v c).pwr.idleState = c.pwr.idleState ∧ (setBank p b v c).pwr.keepSplit = c.pwr.keepSplit ∧ (setBank p b v
    c).pwr.keepKept = c.pwr.keepKept ∧ (setBank p b v c).pwr.vretLp = c.pwr.vretLp ∧ (setBank p b v c).pwr.saved = c.pwr.saved ∧
    (setBank p b v c).pwr.latch = c.pwr.latch ∧ (setBank p b v c).pwr.warnDue = c.pwr.warnDue ∧ (setBank p b v c).pwr.saveCrc =
    c.pwr.saveCrc :=
  ⟨rfl, rfl, rfl, rfl, rfl, rfl, rfl, rfl, rfl, rfl, rfl, rfl, rfl, rfl, rfl, rfl, rfl, rfl, rfl, rfl, rfl, rfl, rfl, rfl, rfl, rfl, rfl,
    rfl, rfl, rfl, rfl, rfl, rfl, rfl, rfl, rfl, rfl, rfl, rfl, rfl, rfl⟩

@[simp] theorem entryNext_frame (e : Entry) (c : Ctl) :
    (entryNext e c).part = c.part ∧ (entryNext e c).fuse = c.fuse ∧ (entryNext e c).pin = c.pin ∧ (entryNext e c).out = c.out ∧
    (entryNext e c).edge = c.edge ∧ (entryNext e c).pc = c.pc ∧ (entryNext e c).rtc = c.rtc ∧ (entryNext e c).regs = c.regs ∧ (entryNext
    e c).int = c.int ∧ (entryNext e c).evc = c.evc ∧ (entryNext e c).port = c.port ∧ (entryNext e c).grp = c.grp ∧ (entryNext e
    c).frPace = c.frPace ∧ (entryNext e c).chv = c.chv ∧ (entryNext e c).lfsrPort = c.lfsrPort ∧ (entryNext e c).lfsrQ = c.lfsrQ ∧
    (entryNext e c).lfsrHp = c.lfsrHp ∧ (entryNext e c).mov = c.mov ∧ (entryNext e c).lnd = c.lnd ∧ (entryNext e c).srl = c.srl ∧
    (entryNext e c).prt = c.prt ∧ (entryNext e c).lov = c.lov ∧ (entryNext e c).dev = c.dev ∧ (entryNext e c).region = c.region ∧
    (entryNext e c).tapIr = c.tapIr ∧ (entryNext e c).tap = c.tap ∧ (entryNext e c).report = c.report ∧ (entryNext e c).free = c.free ∧
    (entryNext e c).pwr.bank = c.pwr.bank ∧ (entryNext e c).pwr.freeze = c.pwr.freeze ∧ (entryNext e c).pwr.okSinceA = c.pwr.okSinceA ∧
    (entryNext e c).pwr.okSinceB = c.pwr.okSinceB ∧ (entryNext e c).pwr.moves = c.pwr.moves ∧ (entryNext e c).pwr.idleState =
    c.pwr.idleState ∧ (entryNext e c).pwr.keepSplit = c.pwr.keepSplit ∧ (entryNext e c).pwr.keepKept = c.pwr.keepKept ∧ (entryNext e
    c).pwr.vretLp = c.pwr.vretLp ∧ (entryNext e c).pwr.saved = c.pwr.saved ∧ (entryNext e c).pwr.latch = c.pwr.latch ∧ (entryNext e
    c).pwr.warnDue = c.pwr.warnDue ∧ (entryNext e c).pwr.saveCrc = c.pwr.saveCrc :=
  ⟨rfl, rfl, rfl, rfl, rfl, rfl, rfl, rfl, rfl, rfl, rfl, rfl, rfl, rfl, rfl, rfl, rfl, rfl, rfl, rfl, rfl, rfl, rfl, rfl, rfl, rfl, rfl,
    rfl, rfl, rfl, rfl, rfl, rfl, rfl, rfl, rfl, rfl, rfl, rfl, rfl, rfl⟩

@[simp] theorem setDom_frame (d : Nat) (v : Dom) (c : Ctl) :
    (setDom d v c).part = c.part ∧ (setDom d v c).fuse = c.fuse ∧ (setDom d v c).pin = c.pin ∧ (setDom d v c).out = c.out ∧ (setDom d v
    c).edge = c.edge ∧ (setDom d v c).pc = c.pc ∧ (setDom d v c).rtc = c.rtc ∧ (setDom d v c).regs = c.regs ∧ (setDom d v c).int = c.int
    ∧ (setDom d v c).evc = c.evc ∧ (setDom d v c).port = c.port ∧ (setDom d v c).grp = c.grp ∧ (setDom d v c).frPace = c.frPace ∧
    (setDom d v c).chv = c.chv ∧ (setDom d v c).lfsrPort = c.lfsrPort ∧ (setDom d v c).lfsrQ = c.lfsrQ ∧ (setDom d v c).lfsrHp =
    c.lfsrHp ∧ (setDom d v c).mov = c.mov ∧ (setDom d v c).lnd = c.lnd ∧ (setDom d v c).srl = c.srl ∧ (setDom d v c).prt = c.prt ∧
    (setDom d v c).pwr = c.pwr ∧ (setDom d v c).lov = c.lov ∧ (setDom d v c).region = c.region ∧ (setDom d v c).tapIr = c.tapIr ∧
    (setDom d v c).tap = c.tap ∧ (setDom d v c).report = c.report ∧ (setDom d v c).free = c.free ∧ (setDom d v c).dev.run = c.dev.run ∧
    (setDom d v c).dev.resetReq = c.dev.resetReq ∧ (setDom d v c).dev.seen = c.dev.seen ∧ (setDom d v c).dev.hub = c.dev.hub ∧ (setDom d
    v c).dev.heldWrites = c.dev.heldWrites ∧ (setDom d v c).dev.needPower = c.dev.needPower ∧ (setDom d v c).dev.load = c.dev.load ∧
    (setDom d v c).dev.own = c.dev.own ∧ (setDom d v c).dev.acienRs = c.dev.acienRs :=
  ⟨rfl, rfl, rfl, rfl, rfl, rfl, rfl, rfl, rfl, rfl, rfl, rfl, rfl, rfl, rfl, rfl, rfl, rfl, rfl, rfl, rfl, rfl, rfl, rfl, rfl, rfl, rfl,
    rfl, rfl, rfl, rfl, rfl, rfl, rfl, rfl, rfl, rfl⟩

@[simp] theorem pushOp_frame (owner : Owner) (ta : Nat) (acc : Acc) (priv : Bool) (qos : Nat) (c : Ctl) :
    (pushOp owner ta acc priv qos c).part = c.part ∧ (pushOp owner ta acc priv qos c).fuse = c.fuse ∧ (pushOp owner ta acc priv qos
    c).pin = c.pin ∧ (pushOp owner ta acc priv qos c).out = c.out ∧ (pushOp owner ta acc priv qos c).edge = c.edge ∧ (pushOp owner ta
    acc priv qos c).pc = c.pc ∧ (pushOp owner ta acc priv qos c).rtc = c.rtc ∧ (pushOp owner ta acc priv qos c).regs = c.regs ∧ (pushOp
    owner ta acc priv qos c).int = c.int ∧ (pushOp owner ta acc priv qos c).evc = c.evc ∧ (pushOp owner ta acc priv qos c).grp = c.grp ∧
    (pushOp owner ta acc priv qos c).frPace = c.frPace ∧ (pushOp owner ta acc priv qos c).chv = c.chv ∧ (pushOp owner ta acc priv qos
    c).lfsrPort = c.lfsrPort ∧ (pushOp owner ta acc priv qos c).lfsrQ = c.lfsrQ ∧ (pushOp owner ta acc priv qos c).lfsrHp = c.lfsrHp ∧
    (pushOp owner ta acc priv qos c).mov = c.mov ∧ (pushOp owner ta acc priv qos c).lnd = c.lnd ∧ (pushOp owner ta acc priv qos c).srl =
    c.srl ∧ (pushOp owner ta acc priv qos c).prt = c.prt ∧ (pushOp owner ta acc priv qos c).pwr = c.pwr ∧ (pushOp owner ta acc priv qos
    c).lov = c.lov ∧ (pushOp owner ta acc priv qos c).dev = c.dev ∧ (pushOp owner ta acc priv qos c).region = c.region ∧ (pushOp owner
    ta acc priv qos c).tapIr = c.tapIr ∧ (pushOp owner ta acc priv qos c).tap = c.tap ∧ (pushOp owner ta acc priv qos c).report =
    c.report ∧ (pushOp owner ta acc priv qos c).free = c.free ∧ (pushOp owner ta acc priv qos c).port.regNo = c.port.regNo ∧ (pushOp
    owner ta acc priv qos c).port.credit = c.port.credit ∧ (pushOp owner ta acc priv qos c).port.reqs = c.port.reqs ∧ (pushOp owner ta
    acc priv qos c).port.parity = c.port.parity :=
  ⟨rfl, rfl, rfl, rfl, rfl, rfl, rfl, rfl, rfl, rfl, rfl, rfl, rfl, rfl, rfl, rfl, rfl, rfl, rfl, rfl, rfl, rfl, rfl, rfl, rfl, rfl, rfl,
    rfl, rfl, rfl, rfl, rfl⟩

@[simp] theorem dropOp_frame (o : LineOp) (c : Ctl) :
    (dropOp o c).part = c.part ∧ (dropOp o c).fuse = c.fuse ∧ (dropOp o c).pin = c.pin ∧ (dropOp o c).out = c.out ∧ (dropOp o c).edge =
    c.edge ∧ (dropOp o c).pc = c.pc ∧ (dropOp o c).rtc = c.rtc ∧ (dropOp o c).regs = c.regs ∧ (dropOp o c).int = c.int ∧ (dropOp o
    c).evc = c.evc ∧ (dropOp o c).grp = c.grp ∧ (dropOp o c).frPace = c.frPace ∧ (dropOp o c).chv = c.chv ∧ (dropOp o c).lfsrPort =
    c.lfsrPort ∧ (dropOp o c).lfsrQ = c.lfsrQ ∧ (dropOp o c).lfsrHp = c.lfsrHp ∧ (dropOp o c).mov = c.mov ∧ (dropOp o c).lnd = c.lnd ∧
    (dropOp o c).srl = c.srl ∧ (dropOp o c).prt = c.prt ∧ (dropOp o c).pwr = c.pwr ∧ (dropOp o c).lov = c.lov ∧ (dropOp o c).dev = c.dev
    ∧ (dropOp o c).region = c.region ∧ (dropOp o c).tapIr = c.tapIr ∧ (dropOp o c).tap = c.tap ∧ (dropOp o c).report = c.report ∧
    (dropOp o c).free = c.free ∧ (dropOp o c).port.serial = c.port.serial ∧ (dropOp o c).port.regNo = c.port.regNo ∧ (dropOp o
    c).port.credit = c.port.credit ∧ (dropOp o c).port.reqs = c.port.reqs ∧ (dropOp o c).port.parity = c.port.parity :=
  ⟨rfl, rfl, rfl, rfl, rfl, rfl, rfl, rfl, rfl, rfl, rfl, rfl, rfl, rfl, rfl, rfl, rfl, rfl, rfl, rfl, rfl, rfl, rfl, rfl, rfl, rfl, rfl,
    rfl, rfl, rfl, rfl, rfl, rfl⟩

@[simp] theorem dropJob_frame (k : Nat) (c : Ctl) :
    (dropJob k c).part = c.part ∧ (dropJob k c).fuse = c.fuse ∧ (dropJob k c).pin = c.pin ∧ (dropJob k c).out = c.out ∧ (dropJob k
    c).edge = c.edge ∧ (dropJob k c).pc = c.pc ∧ (dropJob k c).rtc = c.rtc ∧ (dropJob k c).regs = c.regs ∧ (dropJob k c).int = c.int ∧
    (dropJob k c).evc = c.evc ∧ (dropJob k c).grp = c.grp ∧ (dropJob k c).frPace = c.frPace ∧ (dropJob k c).chv = c.chv ∧ (dropJob k
    c).lfsrPort = c.lfsrPort ∧ (dropJob k c).lfsrQ = c.lfsrQ ∧ (dropJob k c).lfsrHp = c.lfsrHp ∧ (dropJob k c).mov = c.mov ∧ (dropJob k
    c).lnd = c.lnd ∧ (dropJob k c).srl = c.srl ∧ (dropJob k c).prt = c.prt ∧ (dropJob k c).pwr = c.pwr ∧ (dropJob k c).lov = c.lov ∧
    (dropJob k c).dev = c.dev ∧ (dropJob k c).region = c.region ∧ (dropJob k c).tapIr = c.tapIr ∧ (dropJob k c).tap = c.tap ∧ (dropJob k
    c).report = c.report ∧ (dropJob k c).free = c.free ∧ (dropJob k c).port.serial = c.port.serial ∧ (dropJob k c).port.regNo =
    c.port.regNo ∧ (dropJob k c).port.credit = c.port.credit ∧ (dropJob k c).port.reqs = c.port.reqs ∧ (dropJob k c).port.ops =
    c.port.ops :=
  ⟨rfl, rfl, rfl, rfl, rfl, rfl, rfl, rfl, rfl, rfl, rfl, rfl, rfl, rfl, rfl, rfl, rfl, rfl, rfl, rfl, rfl, rfl, rfl, rfl, rfl, rfl, rfl,
    rfl, rfl, rfl, rfl, rfl, rfl⟩

@[simp] theorem setReqRes_frame (id i : Nat) (res : LineRes) (c : Ctl) :
    (setReqRes id i res c).part = c.part ∧ (setReqRes id i res c).fuse = c.fuse ∧ (setReqRes id i res c).pin = c.pin ∧ (setReqRes id i
    res c).out = c.out ∧ (setReqRes id i res c).edge = c.edge ∧ (setReqRes id i res c).pc = c.pc ∧ (setReqRes id i res c).rtc = c.rtc ∧
    (setReqRes id i res c).regs = c.regs ∧ (setReqRes id i res c).int = c.int ∧ (setReqRes id i res c).evc = c.evc ∧ (setReqRes id i res
    c).grp = c.grp ∧ (setReqRes id i res c).frPace = c.frPace ∧ (setReqRes id i res c).chv = c.chv ∧ (setReqRes id i res c).lfsrPort =
    c.lfsrPort ∧ (setReqRes id i res c).lfsrQ = c.lfsrQ ∧ (setReqRes id i res c).lfsrHp = c.lfsrHp ∧ (setReqRes id i res c).mov = c.mov
    ∧ (setReqRes id i res c).lnd = c.lnd ∧ (setReqRes id i res c).srl = c.srl ∧ (setReqRes id i res c).prt = c.prt ∧ (setReqRes id i res
    c).pwr = c.pwr ∧ (setReqRes id i res c).lov = c.lov ∧ (setReqRes id i res c).dev = c.dev ∧ (setReqRes id i res c).region = c.region
    ∧ (setReqRes id i res c).tapIr = c.tapIr ∧ (setReqRes id i res c).tap = c.tap ∧ (setReqRes id i res c).report = c.report ∧
    (setReqRes id i res c).free = c.free ∧ (setReqRes id i res c).port.serial = c.port.serial ∧ (setReqRes id i res c).port.regNo =
    c.port.regNo ∧ (setReqRes id i res c).port.credit = c.port.credit ∧ (setReqRes id i res c).port.ops = c.port.ops ∧ (setReqRes id i
    res c).port.parity = c.port.parity :=
  ⟨rfl, rfl, rfl, rfl, rfl, rfl, rfl, rfl, rfl, rfl, rfl, rfl, rfl, rfl, rfl, rfl, rfl, rfl, rfl, rfl, rfl, rfl, rfl, rfl, rfl, rfl, rfl,
    rfl, rfl, rfl, rfl, rfl, rfl⟩

@[simp] theorem setCtr_frame (i : Nat) (k : Ctr) (c : Ctl) :
    (setCtr i k c).part = c.part ∧ (setCtr i k c).fuse = c.fuse ∧ (setCtr i k c).pin = c.pin ∧ (setCtr i k c).out = c.out ∧ (setCtr i k
    c).edge = c.edge ∧ (setCtr i k c).pc = c.pc ∧ (setCtr i k c).rtc = c.rtc ∧ (setCtr i k c).regs = c.regs ∧ (setCtr i k c).int = c.int
    ∧ (setCtr i k c).port = c.port ∧ (setCtr i k c).grp = c.grp ∧ (setCtr i k c).frPace = c.frPace ∧ (setCtr i k c).chv = c.chv ∧
    (setCtr i k c).lfsrPort = c.lfsrPort ∧ (setCtr i k c).lfsrQ = c.lfsrQ ∧ (setCtr i k c).lfsrHp = c.lfsrHp ∧ (setCtr i k c).mov =
    c.mov ∧ (setCtr i k c).lnd = c.lnd ∧ (setCtr i k c).srl = c.srl ∧ (setCtr i k c).prt = c.prt ∧ (setCtr i k c).pwr = c.pwr ∧ (setCtr
    i k c).lov = c.lov ∧ (setCtr i k c).dev = c.dev ∧ (setCtr i k c).region = c.region ∧ (setCtr i k c).tapIr = c.tapIr ∧ (setCtr i k
    c).tap = c.tap ∧ (setCtr i k c).report = c.report ∧ (setCtr i k c).free = c.free ∧ (setCtr i k c).evc.run = c.evc.run ∧ (setCtr i k
    c).evc.ovf = c.evc.ovf ∧ (setCtr i k c).evc.enLo = c.evc.enLo ∧ (setCtr i k c).evc.enHi = c.evc.enHi ∧ (setCtr i k c).evc.snapDue =
    c.evc.snapDue ∧ (setCtr i k c).evc.clrDue = c.evc.clrDue :=
  ⟨rfl, rfl, rfl, rfl, rfl, rfl, rfl, rfl, rfl, rfl, rfl, rfl, rfl, rfl, rfl, rfl, rfl, rfl, rfl, rfl, rfl, rfl, rfl, rfl, rfl, rfl, rfl,
    rfl, rfl, rfl, rfl, rfl, rfl, rfl⟩

@[simp] theorem evcSnap_frame (c : Ctl) :
    (evcSnap c).part = c.part ∧ (evcSnap c).fuse = c.fuse ∧ (evcSnap c).pin = c.pin ∧ (evcSnap c).out = c.out ∧ (evcSnap c).edge =
    c.edge ∧ (evcSnap c).pc = c.pc ∧ (evcSnap c).rtc = c.rtc ∧ (evcSnap c).regs = c.regs ∧ (evcSnap c).int = c.int ∧ (evcSnap c).port =
    c.port ∧ (evcSnap c).grp = c.grp ∧ (evcSnap c).frPace = c.frPace ∧ (evcSnap c).chv = c.chv ∧ (evcSnap c).lfsrPort = c.lfsrPort ∧
    (evcSnap c).lfsrQ = c.lfsrQ ∧ (evcSnap c).lfsrHp = c.lfsrHp ∧ (evcSnap c).mov = c.mov ∧ (evcSnap c).lnd = c.lnd ∧ (evcSnap c).srl =
    c.srl ∧ (evcSnap c).prt = c.prt ∧ (evcSnap c).pwr = c.pwr ∧ (evcSnap c).lov = c.lov ∧ (evcSnap c).dev = c.dev ∧ (evcSnap c).region =
    c.region ∧ (evcSnap c).tapIr = c.tapIr ∧ (evcSnap c).tap = c.tap ∧ (evcSnap c).report = c.report ∧ (evcSnap c).free = c.free ∧
    (evcSnap c).evc.run = c.evc.run ∧ (evcSnap c).evc.ovf = c.evc.ovf ∧ (evcSnap c).evc.enLo = c.evc.enLo ∧ (evcSnap c).evc.enHi =
    c.evc.enHi ∧ (evcSnap c).evc.snapDue = c.evc.snapDue ∧ (evcSnap c).evc.clrDue = c.evc.clrDue :=
  ⟨rfl, rfl, rfl, rfl, rfl, rfl, rfl, rfl, rfl, rfl, rfl, rfl, rfl, rfl, rfl, rfl, rfl, rfl, rfl, rfl, rfl, rfl, rfl, rfl, rfl, rfl, rfl,
    rfl, rfl, rfl, rfl, rfl, rfl, rfl⟩

@[simp] theorem setRate_frame (s rate : Nat) (c : Ctl) :
    (setRate s rate c).part = c.part ∧ (setRate s rate c).fuse = c.fuse ∧ (setRate s rate c).out = c.out ∧ (setRate s rate c).edge =
    c.edge ∧ (setRate s rate c).pc = c.pc ∧ (setRate s rate c).rtc = c.rtc ∧ (setRate s rate c).regs = c.regs ∧ (setRate s rate c).int =
    c.int ∧ (setRate s rate c).evc = c.evc ∧ (setRate s rate c).port = c.port ∧ (setRate s rate c).grp = c.grp ∧ (setRate s rate
    c).frPace = c.frPace ∧ (setRate s rate c).chv = c.chv ∧ (setRate s rate c).lfsrPort = c.lfsrPort ∧ (setRate s rate c).lfsrQ =
    c.lfsrQ ∧ (setRate s rate c).lfsrHp = c.lfsrHp ∧ (setRate s rate c).mov = c.mov ∧ (setRate s rate c).lnd = c.lnd ∧ (setRate s rate
    c).srl = c.srl ∧ (setRate s rate c).prt = c.prt ∧ (setRate s rate c).pwr = c.pwr ∧ (setRate s rate c).lov = c.lov ∧ (setRate s rate
    c).dev = c.dev ∧ (setRate s rate c).region = c.region ∧ (setRate s rate c).tapIr = c.tapIr ∧ (setRate s rate c).tap = c.tap ∧
    (setRate s rate c).report = c.report ∧ (setRate s rate c).free = c.free ∧ (setRate s rate c).pin.aonPorN = c.pin.aonPorN ∧ (setRate
    s rate c).pin.rstN = c.pin.rstN ∧ (setRate s rate c).pin.rstReq = c.pin.rstReq ∧ (setRate s rate c).pin.zrst = c.pin.zrst ∧ (setRate
    s rate c).pin.rstAck = c.pin.rstAck ∧ (setRate s rate c).pin.shed = c.pin.shed ∧ (setRate s rate c).pin.devId = c.pin.devId ∧
    (setRate s rate c).pin.hot = c.pin.hot ∧ (setRate s rate c).pin.mvA = c.pin.mvA ∧ (setRate s rate c).pin.mvB = c.pin.mvB ∧ (setRate
    s rate c).pin.pcMhz = c.pin.pcMhz ∧ (setRate s rate c).pin.devHold = c.pin.devHold :=
  ⟨rfl, rfl, rfl, rfl, rfl, rfl, rfl, rfl, rfl, rfl, rfl, rfl, rfl, rfl, rfl, rfl, rfl, rfl, rfl, rfl, rfl, rfl, rfl, rfl, rfl, rfl, rfl,
    rfl, rfl, rfl, rfl, rfl, rfl, rfl, rfl, rfl, rfl, rfl, rfl, rfl⟩

@[simp] theorem drawQ_frame (q n : Nat) (c : Ctl) :
    (drawQ q n c).part = c.part ∧ (drawQ q n c).fuse = c.fuse ∧ (drawQ q n c).pin = c.pin ∧ (drawQ q n c).out = c.out ∧ (drawQ q n
    c).edge = c.edge ∧ (drawQ q n c).pc = c.pc ∧ (drawQ q n c).rtc = c.rtc ∧ (drawQ q n c).regs = c.regs ∧ (drawQ q n c).int = c.int ∧
    (drawQ q n c).evc = c.evc ∧ (drawQ q n c).port = c.port ∧ (drawQ q n c).grp = c.grp ∧ (drawQ q n c).frPace = c.frPace ∧ (drawQ q n
    c).chv = c.chv ∧ (drawQ q n c).lfsrPort = c.lfsrPort ∧ (drawQ q n c).lfsrHp = c.lfsrHp ∧ (drawQ q n c).mov = c.mov ∧ (drawQ q n
    c).lnd = c.lnd ∧ (drawQ q n c).srl = c.srl ∧ (drawQ q n c).prt = c.prt ∧ (drawQ q n c).pwr = c.pwr ∧ (drawQ q n c).lov = c.lov ∧
    (drawQ q n c).dev = c.dev ∧ (drawQ q n c).region = c.region ∧ (drawQ q n c).tapIr = c.tapIr ∧ (drawQ q n c).tap = c.tap ∧ (drawQ q n
    c).report = c.report ∧ (drawQ q n c).free = c.free :=
  ⟨rfl, rfl, rfl, rfl, rfl, rfl, rfl, rfl, rfl, rfl, rfl, rfl, rfl, rfl, rfl, rfl, rfl, rfl, rfl, rfl, rfl, rfl, rfl, rfl, rfl, rfl, rfl,
    rfl⟩

@[simp] theorem reseedPort_frame (z : Nat) (c : Ctl) :
    (reseedPort z c).part = c.part ∧ (reseedPort z c).fuse = c.fuse ∧ (reseedPort z c).pin = c.pin ∧ (reseedPort z c).out = c.out ∧
    (reseedPort z c).edge = c.edge ∧ (reseedPort z c).pc = c.pc ∧ (reseedPort z c).rtc = c.rtc ∧ (reseedPort z c).regs = c.regs ∧
    (reseedPort z c).int = c.int ∧ (reseedPort z c).evc = c.evc ∧ (reseedPort z c).port = c.port ∧ (reseedPort z c).grp = c.grp ∧
    (reseedPort z c).frPace = c.frPace ∧ (reseedPort z c).chv = c.chv ∧ (reseedPort z c).lfsrQ = c.lfsrQ ∧ (reseedPort z c).lfsrHp =
    c.lfsrHp ∧ (reseedPort z c).mov = c.mov ∧ (reseedPort z c).lnd = c.lnd ∧ (reseedPort z c).srl = c.srl ∧ (reseedPort z c).prt = c.prt
    ∧ (reseedPort z c).pwr = c.pwr ∧ (reseedPort z c).lov = c.lov ∧ (reseedPort z c).dev = c.dev ∧ (reseedPort z c).region = c.region ∧
    (reseedPort z c).tapIr = c.tapIr ∧ (reseedPort z c).tap = c.tap ∧ (reseedPort z c).report = c.report ∧ (reseedPort z c).free =
    c.free :=
  ⟨rfl, rfl, rfl, rfl, rfl, rfl, rfl, rfl, rfl, rfl, rfl, rfl, rfl, rfl, rfl, rfl, rfl, rfl, rfl, rfl, rfl, rfl, rfl, rfl, rfl, rfl, rfl,
    rfl⟩

@[simp] theorem reseedHp_frame (c : Ctl) :
    (reseedHp c).part = c.part ∧ (reseedHp c).fuse = c.fuse ∧ (reseedHp c).pin = c.pin ∧ (reseedHp c).out = c.out ∧ (reseedHp c).edge =
    c.edge ∧ (reseedHp c).pc = c.pc ∧ (reseedHp c).rtc = c.rtc ∧ (reseedHp c).regs = c.regs ∧ (reseedHp c).int = c.int ∧ (reseedHp
    c).evc = c.evc ∧ (reseedHp c).port = c.port ∧ (reseedHp c).grp = c.grp ∧ (reseedHp c).frPace = c.frPace ∧ (reseedHp c).chv = c.chv ∧
    (reseedHp c).lfsrPort = c.lfsrPort ∧ (reseedHp c).lfsrQ = c.lfsrQ ∧ (reseedHp c).mov = c.mov ∧ (reseedHp c).lnd = c.lnd ∧ (reseedHp
    c).srl = c.srl ∧ (reseedHp c).prt = c.prt ∧ (reseedHp c).pwr = c.pwr ∧ (reseedHp c).lov = c.lov ∧ (reseedHp c).dev = c.dev ∧
    (reseedHp c).region = c.region ∧ (reseedHp c).tapIr = c.tapIr ∧ (reseedHp c).tap = c.tap ∧ (reseedHp c).report = c.report ∧
    (reseedHp c).free = c.free :=
  ⟨rfl, rfl, rfl, rfl, rfl, rfl, rfl, rfl, rfl, rfl, rfl, rfl, rfl, rfl, rfl, rfl, rfl, rfl, rfl, rfl, rfl, rfl, rfl, rfl, rfl, rfl, rfl,
    rfl⟩

/-! What a table reads after one entry is written. -/

theorem reg_setReg (o j : Nat) (v : Word) (c : Ctl) : reg (setReg o v c) j = if o = j then v else reg c j := by
  by_cases h : o = j
  · subst h
    rw [if_pos rfl]
    unfold reg setReg
    exact tabGet_tabPut_same _ o v c.regs
  · rw [if_neg h]
    unfold reg setReg tabGet tabPut
    by_cases hv : v = regReset c.part o
    · simp only [hv, if_true]
      rw [tabFind_tabDel, if_neg (fun e => h e.symm)]
    · simp only [hv, if_false]
      rw [tabFind_tabIns, if_neg h]

@[simp] theorem reg_setReg_same (o : Nat) (v : Word) (c : Ctl) : reg (setReg o v c) o = v := by
  rw [reg_setReg, if_pos rfl]

theorem reg_setReg_ne (o j : Nat) (v : Word) (c : Ctl) (h : o ≠ j) : reg (setReg o v c) j = reg c j := by
  rw [reg_setReg, if_neg h]

theorem reg_modReg (o j : Nat) (f : Word → Word) (c : Ctl) : reg (modReg o f c) j = if o = j then f (reg c o) else reg c j :=
  reg_setReg o j _ c

theorem reg_writeStored (o j : Nat) (v : Word) (c : Ctl) :
    reg (writeStored o v c) j
      = if o = j then writeFields (locked c) (regReset c.part o) v (reg c o) (fieldsOf c.part o) else reg c j :=
  reg_setReg o j _ c

theorem queueOf_setQueue (q j : Nat) (v : Queue) (c : Ctl) : queueOf (setQueue q v c) j = if q = j then v else queueOf c j :=
  tabGet_tabPut _ q j v _

@[simp] theorem queueOf_setQueue_same (q : Nat) (v : Queue) (c : Ctl) : queueOf (setQueue q v c) q = v := tabGet_tabPut_same _ q v _

theorem chvOf_setChv (z j : Nat) (v : Chv) (c : Ctl) : chvOf (setChv z v c) j = if z = j then v else chvOf c j :=
  tabGet_tabPut _ z j v _

@[simp] theorem chvOf_setChv_same (z : Nat) (v : Chv) (c : Ctl) : chvOf (setChv z v c) z = v := tabGet_tabPut_same _ z v _

theorem grpOf_setGrp (g j : Nat) (v : Grp) (c : Ctl) : grpOf (setGrp g v c) j = if g = j then v else grpOf c j :=
  tabGet_tabPut _ g j v _

@[simp] theorem grpOf_setGrp_same (g : Nat) (v : Grp) (c : Ctl) : grpOf (setGrp g v c) g = v := tabGet_tabPut_same _ g v _

theorem winOf_setWin (w j : Nat) (v : Win) (c : Ctl) : winOf (setWin w v c) j = if w = j then v else winOf c j :=
  tabGet_tabPut _ w j v _

@[simp] theorem winOf_setWin_same (w : Nat) (v : Win) (c : Ctl) : winOf (setWin w v c) w = v := tabGet_tabPut_same _ w v _

theorem domOf_setDom (d j : Nat) (v : Dom) (c : Ctl) : domOf (setDom d v c) j = if d = j then v else domOf c j :=
  tabGet_tabPut _ d j v _

@[simp] theorem domOf_setDom_same (d : Nat) (v : Dom) (c : Ctl) : domOf (setDom d v c) d = v := tabGet_tabPut_same _ d v _

theorem scrubOf_setScrub (p j : Nat) (v : Scrub) (c : Ctl) : scrubOf (setScrub p v c) j = if p = j then v else scrubOf c j :=
  tabGet_tabPut _ p j v _

@[simp] theorem scrubOf_setScrub_same (p : Nat) (v : Scrub) (c : Ctl) : scrubOf (setScrub p v c) p = v := tabGet_tabPut_same _ p v _

theorem migOf_setMig (z j : Nat) (v : Mig) (c : Ctl) : migOf (setMig z v c) j = if z = j then v else migOf c j :=
  tabGet_tabPut _ z j v _

@[simp] theorem migOf_setMig_same (z : Nat) (v : Mig) (c : Ctl) : migOf (setMig z v c) z = v := tabGet_tabPut_same _ z v _

theorem barOf_setBar (n j : Nat) (v : Barrier) (c : Ctl) : barOf (setBar n v c) j = if n = j then v else barOf c j :=
  tabGet_tabPut _ n j v _

@[simp] theorem barOf_setBar_same (n : Nat) (v : Barrier) (c : Ctl) : barOf (setBar n v c) n = v := tabGet_tabPut_same _ n v _

theorem chanOf_setChan (k j : Nat) (v : Chan) (c : Ctl) : chanOf (setChan k v c) j = if k = j then v else chanOf c j :=
  tabGet_tabPut _ k j v _

@[simp] theorem chanOf_setChan_same (k : Nat) (v : Chan) (c : Ctl) : chanOf (setChan k v c) k = v := tabGet_tabPut_same _ k v _

theorem ctrOf_setCtr (i j : Nat) (v : Ctr) (c : Ctl) : ctrOf (setCtr i v c) j = if i = j then v else ctrOf c j :=
  tabGet_tabPut _ i j v _

@[simp] theorem ctrOf_setCtr_same (i : Nat) (v : Ctr) (c : Ctl) : ctrOf (setCtr i v c) i = v := tabGet_tabPut_same _ i v _

/-- A lane bundle is indexed by slice and tier. -/
theorem laneOf_setLane (p t p' t' : Nat) (v : Lane) (c : Ctl) :
    laneOf (setLane p t v c) p' t' = if 3 * p + t = 3 * p' + t' then v else laneOf c p' t' :=
  tabGet_tabPut _ _ _ v _

@[simp] theorem lovSpend_frame (i k : Nat) (c : Ctl) :
    (lovSpend i k c).part = c.part ∧ (lovSpend i k c).fuse = c.fuse ∧ (lovSpend i k c).pin = c.pin ∧ (lovSpend i k c).out = c.out ∧
    (lovSpend i k c).edge = c.edge ∧ (lovSpend i k c).pc = c.pc ∧ (lovSpend i k c).rtc = c.rtc ∧ (lovSpend i k c).regs = c.regs ∧
    (lovSpend i k c).int = c.int ∧ (lovSpend i k c).evc = c.evc ∧ (lovSpend i k c).port = c.port ∧ (lovSpend i k c).grp = c.grp ∧
    (lovSpend i k c).frPace = c.frPace ∧ (lovSpend i k c).chv = c.chv ∧ (lovSpend i k c).lfsrPort = c.lfsrPort ∧ (lovSpend i k c).lfsrQ
    = c.lfsrQ ∧ (lovSpend i k c).lfsrHp = c.lfsrHp ∧ (lovSpend i k c).mov = c.mov ∧ (lovSpend i k c).lnd = c.lnd ∧ (lovSpend i k c).srl
    = c.srl ∧ (lovSpend i k c).prt = c.prt ∧ (lovSpend i k c).pwr = c.pwr ∧ (lovSpend i k c).dev = c.dev ∧ (lovSpend i k c).region =
    c.region ∧ (lovSpend i k c).tapIr = c.tapIr ∧ (lovSpend i k c).tap = c.tap ∧ (lovSpend i k c).report = c.report ∧ (lovSpend i k
    c).free = c.free ∧ (lovSpend i k c).lov.env = c.lov.env ∧ (lovSpend i k c).lov.quiet = c.lov.quiet ∧ (lovSpend i k c).lov.wait =
    c.lov.wait ∧ (lovSpend i k c).lov.plan = c.lov.plan ∧ (lovSpend i k c).lov.tok = c.lov.tok ∧ (lovSpend i k c).lov.scrub =
    c.lov.scrub ∧ (lovSpend i k c).lov.act = c.lov.act ∧ (lovSpend i k c).lov.est = c.lov.est ∧ (lovSpend i k c).lov.held = c.lov.held ∧
    (lovSpend i k c).lov.paced = c.lov.paced ∧ (lovSpend i k c).lov.want = c.lov.want ∧ (lovSpend i k c).lov.share = c.lov.share ∧
    (lovSpend i k c).lov.room = c.lov.room ∧ (lovSpend i k c).lov.waits = c.lov.waits ∧ (lovSpend i k c).lov.short = c.lov.short ∧
    (lovSpend i k c).lov.carry = c.lov.carry ∧ (lovSpend i k c).lov.hot = c.lov.hot ∧
    (lovSpend i k c).lov.extra = c.lov.extra :=
  ⟨rfl, rfl, rfl, rfl, rfl, rfl, rfl, rfl, rfl, rfl, rfl, rfl, rfl, rfl, rfl, rfl, rfl, rfl, rfl, rfl, rfl, rfl, rfl, rfl, rfl, rfl,
    rfl, rfl, rfl, rfl, rfl, rfl, rfl, rfl, rfl, rfl, rfl, rfl, rfl, rfl, rfl, rfl, rfl, rfl, rfl, rfl⟩

@[simp] theorem lovTurnedAway_frame (i : Nat) (c : Ctl) :
    (lovTurnedAway i c).part = c.part ∧ (lovTurnedAway i c).fuse = c.fuse ∧ (lovTurnedAway i c).pin = c.pin ∧ (lovTurnedAway i c).out =
    c.out ∧ (lovTurnedAway i c).edge = c.edge ∧ (lovTurnedAway i c).pc = c.pc ∧ (lovTurnedAway i c).rtc = c.rtc ∧ (lovTurnedAway i
    c).regs = c.regs ∧ (lovTurnedAway i c).int = c.int ∧ (lovTurnedAway i c).evc = c.evc ∧ (lovTurnedAway i c).port = c.port ∧
    (lovTurnedAway i c).grp = c.grp ∧ (lovTurnedAway i c).frPace = c.frPace ∧ (lovTurnedAway i c).chv = c.chv ∧ (lovTurnedAway i
    c).lfsrPort = c.lfsrPort ∧ (lovTurnedAway i c).lfsrQ = c.lfsrQ ∧ (lovTurnedAway i c).lfsrHp = c.lfsrHp ∧ (lovTurnedAway i c).mov =
    c.mov ∧ (lovTurnedAway i c).lnd = c.lnd ∧ (lovTurnedAway i c).srl = c.srl ∧ (lovTurnedAway i c).prt = c.prt ∧ (lovTurnedAway i
    c).pwr = c.pwr ∧ (lovTurnedAway i c).dev = c.dev ∧ (lovTurnedAway i c).region = c.region ∧ (lovTurnedAway i c).tapIr = c.tapIr ∧
    (lovTurnedAway i c).tap = c.tap ∧ (lovTurnedAway i c).report = c.report ∧ (lovTurnedAway i c).free = c.free ∧ (lovTurnedAway i
    c).lov.env = c.lov.env ∧ (lovTurnedAway i c).lov.quiet = c.lov.quiet ∧ (lovTurnedAway i c).lov.wait = c.lov.wait ∧ (lovTurnedAway i
    c).lov.plan = c.lov.plan ∧ (lovTurnedAway i c).lov.tok = c.lov.tok ∧ (lovTurnedAway i c).lov.scrub = c.lov.scrub ∧ (lovTurnedAway i
    c).lov.act = c.lov.act ∧ (lovTurnedAway i c).lov.est = c.lov.est ∧ (lovTurnedAway i c).lov.held = c.lov.held ∧ (lovTurnedAway i
    c).lov.paced = c.lov.paced ∧ (lovTurnedAway i c).lov.want = c.lov.want ∧ (lovTurnedAway i c).lov.spent = c.lov.spent ∧
    (lovTurnedAway i c).lov.share = c.lov.share ∧ (lovTurnedAway i c).lov.room = c.lov.room ∧ (lovTurnedAway i c).lov.waits =
    c.lov.waits ∧ (lovTurnedAway i c).lov.carry = c.lov.carry ∧ (lovTurnedAway i c).lov.hot = c.lov.hot ∧
    (lovTurnedAway i c).lov.extra = c.lov.extra :=
  ⟨rfl, rfl, rfl, rfl, rfl, rfl, rfl, rfl, rfl, rfl, rfl, rfl, rfl, rfl, rfl, rfl, rfl, rfl, rfl, rfl, rfl, rfl, rfl, rfl, rfl, rfl,
    rfl, rfl, rfl, rfl, rfl, rfl, rfl, rfl, rfl, rfl, rfl, rfl, rfl, rfl, rfl, rfl, rfl, rfl, rfl, rfl⟩

@[simp] theorem orderMoves_frame (w : Bool) (ms : List (Nat × BankSt)) (c : Ctl) :
    (orderMoves w ms c).part = c.part ∧ (orderMoves w ms c).fuse = c.fuse ∧ (orderMoves w ms c).pin = c.pin ∧ (orderMoves w ms c).out = c.out ∧
    (orderMoves w ms c).edge = c.edge ∧ (orderMoves w ms c).pc = c.pc ∧ (orderMoves w ms c).rtc = c.rtc ∧ (orderMoves w ms c).regs = c.regs ∧
    (orderMoves w ms c).int = c.int ∧ (orderMoves w ms c).evc = c.evc ∧ (orderMoves w ms c).port = c.port ∧ (orderMoves w ms c).grp = c.grp ∧
    (orderMoves w ms c).frPace = c.frPace ∧ (orderMoves w ms c).chv = c.chv ∧ (orderMoves w ms c).lfsrPort = c.lfsrPort ∧ (orderMoves w ms c).lfsrQ = c.lfsrQ ∧ (orderMoves w ms c).lfsrHp = c.lfsrHp ∧ (orderMoves w ms c).mov = c.mov ∧ (orderMoves w ms c).lnd = c.lnd ∧
    (orderMoves w ms c).srl = c.srl ∧ (orderMoves w ms c).prt = c.prt ∧ (orderMoves w ms c).lov = c.lov ∧ (orderMoves w ms c).dev = c.dev ∧
    (orderMoves w ms c).region = c.region ∧ (orderMoves w ms c).tapIr = c.tapIr ∧ (orderMoves w ms c).tap = c.tap ∧ (orderMoves w ms c).report =
    c.report ∧ (orderMoves w ms c).free = c.free ∧ (orderMoves w ms c).pwr.bank = c.pwr.bank ∧ (orderMoves w ms c).pwr.freeze = c.pwr.freeze ∧
    (orderMoves w ms c).pwr.okSinceA = c.pwr.okSinceA ∧ (orderMoves w ms c).pwr.okSinceB = c.pwr.okSinceB ∧ (orderMoves w ms c).pwr.entry =
    c.pwr.entry ∧ (orderMoves w ms c).pwr.idleState = c.pwr.idleState ∧ (orderMoves w ms c).pwr.keepSplit = c.pwr.keepSplit ∧ (orderMoves w ms c).pwr.keepKept = c.pwr.keepKept ∧ (orderMoves w ms c).pwr.vretLp = c.pwr.vretLp ∧ (orderMoves w ms c).pwr.saved = c.pwr.saved ∧
    (orderMoves w ms c).pwr.saveCrc = c.pwr.saveCrc ∧ (orderMoves w ms c).pwr.latch = c.pwr.latch ∧ (orderMoves w ms c).pwr.warnDue =
    c.pwr.warnDue :=
  ⟨rfl, rfl, rfl, rfl, rfl, rfl, rfl, rfl, rfl, rfl, rfl, rfl, rfl, rfl, rfl, rfl, rfl, rfl, rfl, rfl, rfl, rfl, rfl, rfl, rfl, rfl,
    rfl, rfl, rfl, rfl, rfl, rfl, rfl, rfl, rfl, rfl, rfl, rfl, rfl, rfl, rfl⟩

@[simp] theorem cancelMoves_frame (ks : List (Nat × Nat)) (c : Ctl) :
    (cancelMoves ks c).part = c.part ∧ (cancelMoves ks c).fuse = c.fuse ∧ (cancelMoves ks c).pin = c.pin ∧ (cancelMoves ks c).out =
    c.out ∧ (cancelMoves ks c).edge = c.edge ∧ (cancelMoves ks c).pc = c.pc ∧ (cancelMoves ks c).rtc = c.rtc ∧ (cancelMoves ks c).regs =
    c.regs ∧ (cancelMoves ks c).int = c.int ∧ (cancelMoves ks c).evc = c.evc ∧ (cancelMoves ks c).port = c.port ∧ (cancelMoves ks c).grp
    = c.grp ∧ (cancelMoves ks c).frPace = c.frPace ∧ (cancelMoves ks c).chv = c.chv ∧ (cancelMoves ks c).lfsrPort = c.lfsrPort ∧
    (cancelMoves ks c).lfsrQ = c.lfsrQ ∧ (cancelMoves ks c).lfsrHp = c.lfsrHp ∧ (cancelMoves ks c).mov = c.mov ∧ (cancelMoves ks c).lnd
    = c.lnd ∧ (cancelMoves ks c).srl = c.srl ∧ (cancelMoves ks c).prt = c.prt ∧ (cancelMoves ks c).lov = c.lov ∧ (cancelMoves ks c).dev
    = c.dev ∧ (cancelMoves ks c).region = c.region ∧ (cancelMoves ks c).tapIr = c.tapIr ∧ (cancelMoves ks c).tap = c.tap ∧ (cancelMoves
    ks c).report = c.report ∧ (cancelMoves ks c).free = c.free ∧ (cancelMoves ks c).pwr.bank = c.pwr.bank ∧ (cancelMoves ks
    c).pwr.freeze = c.pwr.freeze ∧ (cancelMoves ks c).pwr.okSinceA = c.pwr.okSinceA ∧ (cancelMoves ks c).pwr.okSinceB = c.pwr.okSinceB ∧
    (cancelMoves ks c).pwr.entry = c.pwr.entry ∧ (cancelMoves ks c).pwr.idleState = c.pwr.idleState ∧ (cancelMoves ks c).pwr.keepSplit =
    c.pwr.keepSplit ∧ (cancelMoves ks c).pwr.keepKept = c.pwr.keepKept ∧ (cancelMoves ks c).pwr.vretLp = c.pwr.vretLp ∧ (cancelMoves ks
    c).pwr.saved = c.pwr.saved ∧ (cancelMoves ks c).pwr.saveCrc = c.pwr.saveCrc ∧ (cancelMoves ks c).pwr.latch = c.pwr.latch ∧
    (cancelMoves ks c).pwr.warnDue = c.pwr.warnDue :=
  ⟨rfl, rfl, rfl, rfl, rfl, rfl, rfl, rfl, rfl, rfl, rfl, rfl, rfl, rfl, rfl, rfl, rfl, rfl, rfl, rfl, rfl, rfl, rfl, rfl, rfl, rfl,
    rfl, rfl, rfl, rfl, rfl, rfl, rfl, rfl, rfl, rfl, rfl, rfl, rfl, rfl, rfl⟩

@[simp] theorem orderBanks_frame (w : Bool) (ks : List (Nat × Nat)) (c : Ctl) :
    (orderBanks w ks c).part = c.part ∧ (orderBanks w ks c).fuse = c.fuse ∧ (orderBanks w ks c).pin = c.pin ∧ (orderBanks w ks c).out = c.out ∧
    (orderBanks w ks c).edge = c.edge ∧ (orderBanks w ks c).pc = c.pc ∧ (orderBanks w ks c).rtc = c.rtc ∧ (orderBanks w ks c).regs = c.regs ∧
    (orderBanks w ks c).int = c.int ∧ (orderBanks w ks c).evc = c.evc ∧ (orderBanks w ks c).port = c.port ∧ (orderBanks w ks c).grp = c.grp ∧
    (orderBanks w ks c).frPace = c.frPace ∧ (orderBanks w ks c).chv = c.chv ∧ (orderBanks w ks c).lfsrPort = c.lfsrPort ∧ (orderBanks w ks c).lfsrQ = c.lfsrQ ∧ (orderBanks w ks c).lfsrHp = c.lfsrHp ∧ (orderBanks w ks c).mov = c.mov ∧ (orderBanks w ks c).lnd = c.lnd ∧
    (orderBanks w ks c).srl = c.srl ∧ (orderBanks w ks c).prt = c.prt ∧ (orderBanks w ks c).lov = c.lov ∧ (orderBanks w ks c).dev = c.dev ∧
    (orderBanks w ks c).region = c.region ∧ (orderBanks w ks c).tapIr = c.tapIr ∧ (orderBanks w ks c).tap = c.tap ∧ (orderBanks w ks c).report =
    c.report ∧ (orderBanks w ks c).free = c.free ∧ (orderBanks w ks c).pwr.bank = c.pwr.bank ∧ (orderBanks w ks c).pwr.freeze = c.pwr.freeze ∧
    (orderBanks w ks c).pwr.okSinceA = c.pwr.okSinceA ∧ (orderBanks w ks c).pwr.okSinceB = c.pwr.okSinceB ∧ (orderBanks w ks c).pwr.entry =
    c.pwr.entry ∧ (orderBanks w ks c).pwr.idleState = c.pwr.idleState ∧ (orderBanks w ks c).pwr.keepSplit = c.pwr.keepSplit ∧ (orderBanks w ks c).pwr.keepKept = c.pwr.keepKept ∧ (orderBanks w ks c).pwr.vretLp = c.pwr.vretLp ∧ (orderBanks w ks c).pwr.saved = c.pwr.saved ∧
    (orderBanks w ks c).pwr.saveCrc = c.pwr.saveCrc ∧ (orderBanks w ks c).pwr.latch = c.pwr.latch ∧ (orderBanks w ks c).pwr.warnDue =
    c.pwr.warnDue :=
  ⟨rfl, rfl, rfl, rfl, rfl, rfl, rfl, rfl, rfl, rfl, rfl, rfl, rfl, rfl, rfl, rfl, rfl, rfl, rfl, rfl, rfl, rfl, rfl, rfl, rfl, rfl,
    rfl, rfl, rfl, rfl, rfl, rfl, rfl, rfl, rfl, rfl, rfl, rfl, rfl, rfl, rfl⟩

@[simp] theorem setJob_frame (j : Option AcienJob) (c : Ctl) :
    (setJob j c).part = c.part ∧ (setJob j c).fuse = c.fuse ∧ (setJob j c).pin = c.pin ∧ (setJob j c).out = c.out ∧ (setJob j c).edge =
    c.edge ∧ (setJob j c).pc = c.pc ∧ (setJob j c).rtc = c.rtc ∧ (setJob j c).regs = c.regs ∧ (setJob j c).int = c.int ∧ (setJob j
    c).evc = c.evc ∧ (setJob j c).port = c.port ∧ (setJob j c).grp = c.grp ∧ (setJob j c).frPace = c.frPace ∧ (setJob j c).chv = c.chv ∧
    (setJob j c).lfsrPort = c.lfsrPort ∧ (setJob j c).lfsrQ = c.lfsrQ ∧ (setJob j c).lfsrHp = c.lfsrHp ∧ (setJob j c).mov = c.mov ∧
    (setJob j c).lnd = c.lnd ∧ (setJob j c).srl = c.srl ∧ (setJob j c).pwr = c.pwr ∧ (setJob j c).lov = c.lov ∧ (setJob j c).dev = c.dev
    ∧ (setJob j c).region = c.region ∧ (setJob j c).tapIr = c.tapIr ∧ (setJob j c).tap = c.tap ∧ (setJob j c).report = c.report ∧
    (setJob j c).free = c.free ∧ (setJob j c).prt.cap = c.prt.cap ∧ (setJob j c).prt.logLast = c.prt.logLast ∧ (setJob j c).prt.lane =
    c.prt.lane ∧ (setJob j c).prt.scrub = c.prt.scrub ∧ (setJob j c).prt.scrubDone = c.prt.scrubDone ∧ (setJob j c).prt.passStart =
    c.prt.passStart ∧ (setJob j c).prt.hour = c.prt.hour ∧ (setJob j c).prt.hourStart = c.prt.hourStart ∧ (setJob j c).prt.mig =
    c.prt.mig ∧ (setJob j c).prt.moved = c.prt.moved ∧ (setJob j c).prt.retired = c.prt.retired ∧ (setJob j c).prt.retLog = c.prt.retLog
    ∧ (setJob j c).prt.badCommitted = c.prt.badCommitted ∧ (setJob j c).prt.badMig = c.prt.badMig ∧ (setJob j c).prt.pendingBad =
    c.prt.pendingBad :=
  ⟨rfl, rfl, rfl, rfl, rfl, rfl, rfl, rfl, rfl, rfl, rfl, rfl, rfl, rfl, rfl, rfl, rfl, rfl, rfl, rfl, rfl, rfl, rfl, rfl, rfl, rfl, rfl,
    rfl, rfl, rfl, rfl, rfl, rfl, rfl, rfl, rfl, rfl, rfl, rfl, rfl, rfl, rfl, rfl⟩

@[simp] theorem latchPaces_frame (c : Ctl) :
    (latchPaces c).part = c.part ∧ (latchPaces c).fuse = c.fuse ∧ (latchPaces c).pin = c.pin ∧ (latchPaces c).out = c.out ∧ (latchPaces
    c).edge = c.edge ∧ (latchPaces c).pc = c.pc ∧ (latchPaces c).rtc = c.rtc ∧ (latchPaces c).regs = c.regs ∧ (latchPaces c).int = c.int
    ∧ (latchPaces c).evc = c.evc ∧ (latchPaces c).port = c.port ∧ (latchPaces c).grp = c.grp ∧ (latchPaces c).frPace = c.frPace ∧
    (latchPaces c).chv = c.chv ∧ (latchPaces c).lfsrPort = c.lfsrPort ∧ (latchPaces c).lfsrQ = c.lfsrQ ∧ (latchPaces c).lfsrHp =
    c.lfsrHp ∧ (latchPaces c).lnd = c.lnd ∧ (latchPaces c).srl = c.srl ∧ (latchPaces c).prt = c.prt ∧ (latchPaces c).pwr = c.pwr ∧
    (latchPaces c).lov = c.lov ∧ (latchPaces c).dev = c.dev ∧ (latchPaces c).region = c.region ∧ (latchPaces c).tapIr = c.tapIr ∧
    (latchPaces c).tap = c.tap ∧ (latchPaces c).report = c.report ∧ (latchPaces c).free = c.free ∧ (latchPaces c).mov.q = c.mov.q ∧
    (latchPaces c).mov.rr = c.mov.rr ∧ (latchPaces c).mov.sa = c.mov.sa ∧ (latchPaces c).mov.saBeats = c.mov.saBeats ∧ (latchPaces
    c).mov.td = c.mov.td ∧ (latchPaces c).mov.lpCredit = c.mov.lpCredit ∧ (latchPaces c).mov.lpGiven = c.mov.lpGiven ∧ (latchPaces
    c).mov.lpOwed = c.mov.lpOwed ∧ (latchPaces c).mov.saCredit = c.mov.saCredit ∧ (latchPaces c).mov.hotSince = c.mov.hotSince ∧
    (latchPaces c).mov.sqIdle = c.mov.sqIdle ∧ (latchPaces c).mov.saOwed = c.mov.saOwed ∧ (latchPaces c).mov.wd = c.mov.wd :=
  ⟨rfl, rfl, rfl, rfl, rfl, rfl, rfl, rfl, rfl, rfl, rfl, rfl, rfl, rfl, rfl, rfl, rfl, rfl, rfl, rfl, rfl, rfl, rfl, rfl, rfl, rfl, rfl,
    rfl, rfl, rfl, rfl, rfl, rfl, rfl, rfl, rfl, rfl, rfl, rfl, rfl, rfl⟩

@[simp] theorem evcEdge_frame (c : Ctl) :
    (evcEdge c).part = c.part ∧ (evcEdge c).fuse = c.fuse ∧ (evcEdge c).pin = c.pin ∧ (evcEdge c).out = c.out ∧ (evcEdge c).edge =
    c.edge ∧ (evcEdge c).pc = c.pc ∧ (evcEdge c).rtc = c.rtc ∧ (evcEdge c).regs = c.regs ∧ (evcEdge c).int = c.int ∧ (evcEdge c).port =
    c.port ∧ (evcEdge c).grp = c.grp ∧ (evcEdge c).frPace = c.frPace ∧ (evcEdge c).chv = c.chv ∧ (evcEdge c).lfsrPort = c.lfsrPort ∧
    (evcEdge c).lfsrQ = c.lfsrQ ∧ (evcEdge c).lfsrHp = c.lfsrHp ∧ (evcEdge c).mov = c.mov ∧ (evcEdge c).lnd = c.lnd ∧ (evcEdge c).srl =
    c.srl ∧ (evcEdge c).prt = c.prt ∧ (evcEdge c).pwr = c.pwr ∧ (evcEdge c).lov = c.lov ∧ (evcEdge c).dev = c.dev ∧ (evcEdge c).region =
    c.region ∧ (evcEdge c).tapIr = c.tapIr ∧ (evcEdge c).tap = c.tap ∧ (evcEdge c).report = c.report ∧ (evcEdge c).free = c.free ∧
    (evcEdge c).evc.run = c.evc.run ∧ (evcEdge c).evc.enLo = c.evc.enLo ∧ (evcEdge c).evc.enHi = c.evc.enHi := by
  unfold evcEdge evcSnap evcClear
  cases c.evc.snapDue <;> cases c.evc.clrDue <;> exact
  ⟨rfl, rfl, rfl, rfl, rfl, rfl, rfl, rfl, rfl, rfl, rfl, rfl, rfl, rfl, rfl, rfl, rfl, rfl, rfl, rfl, rfl, rfl, rfl, rfl, rfl, rfl, rfl,
    rfl, rfl, rfl, rfl⟩

/-- A register reads the same when the part and the register table are the same. -/
theorem reg_congr (c d : Ctl) (o : Nat) (hp : d.part = c.part) (hr : d.regs = c.regs) : reg d o = reg c o := by
  unfold reg; rw [hp, hr]

/-! Shared operations that write only sometimes: everything each can do, then its frame. -/

/-- Counting an event changes the event counters and their overflow bits, and interrupt cause 23. -/
theorem countOne_cases (e : Ev) (c : Ctl) (p : Nat × Ctr) :
    ∃ ctr ovf stat ra, countOne e c p = { c with evc := { c.evc with ctr := ctr, ovf := ovf }, int := { c.int with stat := stat, raised := ra } } := by
  unfold countOne
  split
  · dsimp only
    split
    · split
      · exact ⟨_, _, _, _, rfl⟩
      · exact ⟨_, _, c.int.stat, c.int.raised, rfl⟩
    · exact ⟨_, c.evc.ovf, c.int.stat, c.int.raised, rfl⟩
  · exact ⟨c.evc.ctr, c.evc.ovf, c.int.stat, c.int.raised, rfl⟩

theorem countAll_cases (e : Ev) (l : List (Nat × Ctr)) (c : Ctl) :
    ∃ ctr ovf stat ra, l.foldl (countOne e) c
      = { c with evc := { c.evc with ctr := ctr, ovf := ovf }, int := { c.int with stat := stat, raised := ra } } := by
  induction l generalizing c with
  | nil => exact ⟨c.evc.ctr, c.evc.ovf, c.int.stat, c.int.raised, rfl⟩
  | cons p r ih =>
    obtain ⟨a, b, d, r1, h⟩ := countOne_cases e c p
    obtain ⟨a', b', d', r', h'⟩ := ih (countOne e c p)
    exact ⟨a', b', d', r', by rw [List.foldl_cons, h', h]⟩

theorem emit_cases (e : Ev) (c : Ctl) :
    ∃ ctr ovf stat ra, emit e c = { c with evc := { c.evc with ctr := ctr, ovf := ovf }, int := { c.int with stat := stat, raised := ra } } := by
  unfold emit
  split
  · exact countAll_cases e _ c
  · exact ⟨c.evc.ctr, c.evc.ovf, c.int.stat, c.int.raised, rfl⟩

/-- Latching an error class changes PRT_EV and the interrupt causes. -/
theorem latchPrt_cases (b : Nat) (c : Ctl) :
    ∃ regs stat ra, latchPrt b c = { c with regs := regs, int := { c.int with stat := stat, raised := ra } } := by
  unfold latchPrt
  split
  · exact ⟨c.regs, c.int.stat, c.int.raised, rfl⟩
  · exact ⟨_, _, _, rfl⟩

theorem latchPwr_cases (b : Nat) (c : Ctl) :
    ∃ regs stat ra, latchPwr b c = { c with regs := regs, int := { c.int with stat := stat, raised := ra } } := ⟨_, _, _, rfl⟩

/-- A capture joins the queue, or is counted as lost. -/
theorem captureIn_cases (zone : Option Nat) (e : Cap) (c : Ctl) :
    ∃ cap ctr ovf regs stat ra, captureIn zone e c
      = { c with prt := { c.prt with cap := cap }, evc := { c.evc with ctr := ctr, ovf := ovf }, regs := regs
                 int := { c.int with stat := stat, raised := ra } } := by
  unfold captureIn
  split
  · exact ⟨_, c.evc.ctr, c.evc.ovf, c.regs, c.int.stat, c.int.raised, rfl⟩
  · obtain ⟨regs, stat, ra, h⟩ := latchPrt_cases 7 (bumpSat prtCapLost 0 32 c)
    obtain ⟨ctr, ovf, stat', ra', h'⟩ := emit_cases { evQ 0x78 0 with zone := zone } (latchPrt 7 (bumpSat prtCapLost 0 32 c))
    exact ⟨c.prt.cap, ctr, ovf, regs, stat', ra', by rw [h', h]; rfl⟩

theorem capture_cases (e : Cap) (c : Ctl) :
    ∃ cap ctr ovf regs stat ra, capture e c
      = { c with prt := { c.prt with cap := cap }, evc := { c.evc with ctr := ctr, ovf := ovf }, regs := regs
                 int := { c.int with stat := stat, raised := ra } } :=
  captureIn_cases _ e c

/-- Driving an output changes the outputs of the present port cycle alone. -/
theorem drive_cases (e : Edge) (c : Ctl) : ∃ es, drive e c = { c with edge := es } := by
  unfold drive
  split
  · exact ⟨c.edge, rfl⟩
  · exact ⟨_, rfl⟩

theorem drive_edge (e : Edge) (c : Ctl) (h : edgeHeld c e = false) (hv : c.out.vague = false) : (drive e c).edge = c.edge ++ [e] := by
  unfold drive
  rw [h, hv]
  rfl

/-- Changing a running command changes its queue's entry alone. -/
theorem modRun_cases (q : Nat) (f : Run → Run) (c : Ctl) : ∃ t, modRun q f c = { c with mov := { c.mov with q := t } } := by
  unfold modRun
  cases h : (queueOf c q).run with
  | some r => exact ⟨_, by simp only [h]; rfl⟩
  | none => exact ⟨c.mov.q, by simp only [h]⟩

@[simp] theorem countOne_frame (e : Ev) (c : Ctl) (p : Nat × Ctr) :
    (countOne e c p).part = c.part ∧ (countOne e c p).fuse = c.fuse ∧ (countOne e c p).pin = c.pin ∧ (countOne e c p).out = c.out ∧
    (countOne e c p).edge = c.edge ∧ (countOne e c p).pc = c.pc ∧ (countOne e c p).rtc = c.rtc ∧ (countOne e c p).regs = c.regs ∧
    (countOne e c p).port = c.port ∧ (countOne e c p).grp = c.grp ∧ (countOne e c p).frPace = c.frPace ∧ (countOne e c p).chv = c.chv ∧
    (countOne e c p).lfsrPort = c.lfsrPort ∧ (countOne e c p).lfsrQ = c.lfsrQ ∧ (countOne e c p).lfsrHp = c.lfsrHp ∧ (countOne e c
    p).mov = c.mov ∧ (countOne e c p).lnd = c.lnd ∧ (countOne e c p).srl = c.srl ∧ (countOne e c p).prt = c.prt ∧ (countOne e c p).pwr =
    c.pwr ∧ (countOne e c p).lov = c.lov ∧ (countOne e c p).dev = c.dev ∧ (countOne e c p).region = c.region ∧ (countOne e c p).tapIr =
    c.tapIr ∧ (countOne e c p).tap = c.tap ∧ (countOne e c p).report = c.report ∧ (countOne e c p).free = c.free ∧ (countOne e c
    p).evc.run = c.evc.run ∧ (countOne e c p).evc.enLo = c.evc.enLo ∧ (countOne e c p).evc.enHi = c.evc.enHi ∧ (countOne e c
    p).evc.snapDue = c.evc.snapDue ∧ (countOne e c p).evc.clrDue = c.evc.clrDue ∧ (countOne e c p).int.en = c.int.en ∧ (countOne e c
    p).int.map = c.int.map := by
  obtain ⟨_, _, _, _, h⟩ := countOne_cases e c p
  rw [h]
  exact ⟨rfl, rfl, rfl, rfl, rfl, rfl, rfl, rfl, rfl, rfl, rfl, rfl, rfl, rfl, rfl, rfl, rfl, rfl, rfl, rfl, rfl, rfl, rfl, rfl, rfl, rfl,
    rfl, rfl, rfl, rfl, rfl, rfl, rfl, rfl⟩

@[simp] theorem emit_frame (e : Ev) (c : Ctl) :
    (emit e c).part = c.part ∧ (emit e c).fuse = c.fuse ∧ (emit e c).pin = c.pin ∧ (emit e c).out = c.out ∧ (emit e c).edge = c.edge ∧
    (emit e c).pc = c.pc ∧ (emit e c).rtc = c.rtc ∧ (emit e c).regs = c.regs ∧ (emit e c).port = c.port ∧ (emit e c).grp = c.grp ∧ (emit
    e c).frPace = c.frPace ∧ (emit e c).chv = c.chv ∧ (emit e c).lfsrPort = c.lfsrPort ∧ (emit e c).lfsrQ = c.lfsrQ ∧ (emit e c).lfsrHp
    = c.lfsrHp ∧ (emit e c).mov = c.mov ∧ (emit e c).lnd = c.lnd ∧ (emit e c).srl = c.srl ∧ (emit e c).prt = c.prt ∧ (emit e c).pwr =
    c.pwr ∧ (emit e c).lov = c.lov ∧ (emit e c).dev = c.dev ∧ (emit e c).region = c.region ∧ (emit e c).tapIr = c.tapIr ∧ (emit e c).tap
    = c.tap ∧ (emit e c).report = c.report ∧ (emit e c).free = c.free ∧ (emit e c).evc.run = c.evc.run ∧ (emit e c).evc.enLo =
    c.evc.enLo ∧ (emit e c).evc.enHi = c.evc.enHi ∧ (emit e c).evc.snapDue = c.evc.snapDue ∧ (emit e c).evc.clrDue = c.evc.clrDue ∧
    (emit e c).int.en = c.int.en ∧ (emit e c).int.map = c.int.map := by
  obtain ⟨_, _, _, _, h⟩ := emit_cases e c
  rw [h]
  exact ⟨rfl, rfl, rfl, rfl, rfl, rfl, rfl, rfl, rfl, rfl, rfl, rfl, rfl, rfl, rfl, rfl, rfl, rfl, rfl, rfl, rfl, rfl, rfl, rfl, rfl, rfl,
    rfl, rfl, rfl, rfl, rfl, rfl, rfl, rfl⟩

@[simp] theorem latchPrt_frame (b : Nat) (c : Ctl) :
    (latchPrt b c).part = c.part ∧ (latchPrt b c).fuse = c.fuse ∧ (latchPrt b c).pin = c.pin ∧ (latchPrt b c).out = c.out ∧ (latchPrt b
    c).edge = c.edge ∧ (latchPrt b c).pc = c.pc ∧ (latchPrt b c).rtc = c.rtc ∧ (latchPrt b c).evc = c.evc ∧ (latchPrt b c).port = c.port
    ∧ (latchPrt b c).grp = c.grp ∧ (latchPrt b c).frPace = c.frPace ∧ (latchPrt b c).chv = c.chv ∧ (latchPrt b c).lfsrPort = c.lfsrPort
    ∧ (latchPrt b c).lfsrQ = c.lfsrQ ∧ (latchPrt b c).lfsrHp = c.lfsrHp ∧ (latchPrt b c).mov = c.mov ∧ (latchPrt b c).lnd = c.lnd ∧
    (latchPrt b c).srl = c.srl ∧ (latchPrt b c).prt = c.prt ∧ (latchPrt b c).pwr = c.pwr ∧ (latchPrt b c).lov = c.lov ∧ (latchPrt b
    c).dev = c.dev ∧ (latchPrt b c).region = c.region ∧ (latchPrt b c).tapIr = c.tapIr ∧ (latchPrt b c).tap = c.tap ∧ (latchPrt b
    c).report = c.report ∧ (latchPrt b c).free = c.free ∧ (latchPrt b c).int.en = c.int.en ∧ (latchPrt b c).int.map = c.int.map := by
  obtain ⟨_, _, _, h⟩ := latchPrt_cases b c
  rw [h]
  exact ⟨rfl, rfl, rfl, rfl, rfl, rfl, rfl, rfl, rfl, rfl, rfl, rfl, rfl, rfl, rfl, rfl, rfl, rfl, rfl, rfl, rfl, rfl, rfl, rfl, rfl, rfl,
    rfl, rfl, rfl⟩

@[simp] theorem latchPwr_frame (b : Nat) (c : Ctl) :
    (latchPwr b c).part = c.part ∧ (latchPwr b c).fuse = c.fuse ∧ (latchPwr b c).pin = c.pin ∧ (latchPwr b c).out = c.out ∧ (latchPwr b
    c).edge = c.edge ∧ (latchPwr b c).pc = c.pc ∧ (latchPwr b c).rtc = c.rtc ∧ (latchPwr b c).evc = c.evc ∧ (latchPwr b c).port = c.port
    ∧ (latchPwr b c).grp = c.grp ∧ (latchPwr b c).frPace = c.frPace ∧ (latchPwr b c).chv = c.chv ∧ (latchPwr b c).lfsrPort = c.lfsrPort
    ∧ (latchPwr b c).lfsrQ = c.lfsrQ ∧ (latchPwr b c).lfsrHp = c.lfsrHp ∧ (latchPwr b c).mov = c.mov ∧ (latchPwr b c).lnd = c.lnd ∧
    (latchPwr b c).srl = c.srl ∧ (latchPwr b c).prt = c.prt ∧ (latchPwr b c).pwr = c.pwr ∧ (latchPwr b c).lov = c.lov ∧ (latchPwr b
    c).dev = c.dev ∧ (latchPwr b c).region = c.region ∧ (latchPwr b c).tapIr = c.tapIr ∧ (latchPwr b c).tap = c.tap ∧ (latchPwr b
    c).report = c.report ∧ (latchPwr b c).free = c.free ∧ (latchPwr b c).int.en = c.int.en ∧ (latchPwr b c).int.map = c.int.map := by
  obtain ⟨_, _, _, h⟩ := latchPwr_cases b c
  rw [h]
  exact ⟨rfl, rfl, rfl, rfl, rfl, rfl, rfl, rfl, rfl, rfl, rfl, rfl, rfl, rfl, rfl, rfl, rfl, rfl, rfl, rfl, rfl, rfl, rfl, rfl, rfl, rfl,
    rfl, rfl, rfl⟩

@[simp] theorem captureIn_frame (z : Option Nat) (e : Cap) (c : Ctl) :
    (captureIn z e c).part = c.part ∧ (captureIn z e c).fuse = c.fuse ∧ (captureIn z e c).pin = c.pin ∧ (captureIn z e c).out = c.out ∧
    (captureIn z e c).edge = c.edge ∧ (captureIn z e c).pc = c.pc ∧ (captureIn z e c).rtc = c.rtc ∧ (captureIn z e c).port = c.port ∧
    (captureIn z e c).grp = c.grp ∧ (captureIn z e c).frPace = c.frPace ∧ (captureIn z e c).chv = c.chv ∧ (captureIn z e c).lfsrPort =
    c.lfsrPort ∧ (captureIn z e c).lfsrQ = c.lfsrQ ∧ (captureIn z e c).lfsrHp = c.lfsrHp ∧ (captureIn z e c).mov = c.mov ∧ (captureIn z
    e c).lnd = c.lnd ∧ (captureIn z e c).srl = c.srl ∧ (captureIn z e c).pwr = c.pwr ∧ (captureIn z e c).lov = c.lov ∧ (captureIn z e
    c).dev = c.dev ∧ (captureIn z e c).region = c.region ∧ (captureIn z e c).tapIr = c.tapIr ∧ (captureIn z e c).tap = c.tap ∧
    (captureIn z e c).report = c.report ∧ (captureIn z e c).free = c.free ∧ (captureIn z e c).prt.logLast = c.prt.logLast ∧ (captureIn z
    e c).prt.lane = c.prt.lane ∧ (captureIn z e c).prt.scrub = c.prt.scrub ∧ (captureIn z e c).prt.scrubDone = c.prt.scrubDone ∧
    (captureIn z e c).prt.passStart = c.prt.passStart ∧ (captureIn z e c).prt.hour = c.prt.hour ∧ (captureIn z e c).prt.hourStart =
    c.prt.hourStart ∧ (captureIn z e c).prt.mig = c.prt.mig ∧ (captureIn z e c).prt.moved = c.prt.moved ∧ (captureIn z e c).prt.retired
    = c.prt.retired ∧ (captureIn z e c).prt.retLog = c.prt.retLog ∧ (captureIn z e c).prt.badCommitted = c.prt.badCommitted ∧ (captureIn
    z e c).prt.badMig = c.prt.badMig ∧ (captureIn z e c).prt.pendingBad = c.prt.pendingBad ∧ (captureIn z e c).prt.acien = c.prt.acien ∧
    (captureIn z e c).prt.region = c.prt.region ∧
    (captureIn z e c).prt.tagWait = c.prt.tagWait ∧
    (captureIn z e c).evc.run = c.evc.run ∧ (captureIn z e c).evc.enLo = c.evc.enLo ∧ (captureIn z e c).evc.enHi = c.evc.enHi ∧
    (captureIn z e c).evc.snapDue = c.evc.snapDue ∧ (captureIn z e c).evc.clrDue = c.evc.clrDue ∧ (captureIn z e c).int.en = c.int.en ∧
    (captureIn z e c).int.map = c.int.map := by
  obtain ⟨_, _, _, _, _, _, h⟩ := captureIn_cases z e c
  rw [h]
  exact ⟨rfl, rfl, rfl, rfl, rfl, rfl, rfl, rfl, rfl, rfl, rfl, rfl, rfl, rfl, rfl, rfl, rfl, rfl, rfl, rfl, rfl, rfl, rfl, rfl, rfl, rfl,
    rfl, rfl, rfl, rfl, rfl, rfl, rfl, rfl, rfl, rfl, rfl, rfl, rfl, rfl, rfl, rfl, rfl, rfl, rfl, rfl, rfl, rfl, rfl⟩

@[simp] theorem capture_frame (e : Cap) (c : Ctl) :
    (capture e c).part = c.part ∧ (capture e c).fuse = c.fuse ∧ (capture e c).pin = c.pin ∧ (capture e c).out = c.out ∧ (capture e
    c).edge = c.edge ∧ (capture e c).pc = c.pc ∧ (capture e c).rtc = c.rtc ∧ (capture e c).port = c.port ∧ (capture e c).grp = c.grp ∧
    (capture e c).frPace = c.frPace ∧ (capture e c).chv = c.chv ∧ (capture e c).lfsrPort = c.lfsrPort ∧ (capture e c).lfsrQ = c.lfsrQ ∧
    (capture e c).lfsrHp = c.lfsrHp ∧ (capture e c).mov = c.mov ∧ (capture e c).lnd = c.lnd ∧ (capture e c).srl = c.srl ∧ (capture e
    c).pwr = c.pwr ∧ (capture e c).lov = c.lov ∧ (capture e c).dev = c.dev ∧ (capture e c).region = c.region ∧ (capture e c).tapIr =
    c.tapIr ∧ (capture e c).tap = c.tap ∧ (capture e c).report = c.report ∧ (capture e c).free = c.free ∧ (capture e c).prt.logLast =
    c.prt.logLast ∧ (capture e c).prt.lane = c.prt.lane ∧ (capture e c).prt.scrub = c.prt.scrub ∧ (capture e c).prt.scrubDone =
    c.prt.scrubDone ∧ (capture e c).prt.passStart = c.prt.passStart ∧ (capture e c).prt.hour = c.prt.hour ∧ (capture e c).prt.hourStart
    = c.prt.hourStart ∧ (capture e c).prt.mig = c.prt.mig ∧ (capture e c).prt.moved = c.prt.moved ∧ (capture e c).prt.retired =
    c.prt.retired ∧ (capture e c).prt.retLog = c.prt.retLog ∧ (capture e c).prt.badCommitted = c.prt.badCommitted ∧ (capture e
    c).prt.badMig = c.prt.badMig ∧ (capture e c).prt.pendingBad = c.prt.pendingBad ∧ (capture e c).prt.acien = c.prt.acien ∧
    (capture e c).prt.region = c.prt.region ∧
    (capture e c).prt.tagWait = c.prt.tagWait ∧ (capture e
    c).evc.run = c.evc.run ∧ (capture e c).evc.enLo = c.evc.enLo ∧ (capture e c).evc.enHi = c.evc.enHi ∧ (capture e c).evc.snapDue =
    c.evc.snapDue ∧ (capture e c).evc.clrDue = c.evc.clrDue ∧ (capture e c).int.en = c.int.en ∧ (capture e c).int.map = c.int.map :=
  captureIn_frame _ e c

@[simp] theorem drive_frame (e : Edge) (c : Ctl) :
    (drive e c).part = c.part ∧ (drive e c).fuse = c.fuse ∧ (drive e c).pin = c.pin ∧ (drive e c).out = c.out ∧ (drive e c).pc = c.pc ∧
    (drive e c).rtc = c.rtc ∧ (drive e c).regs = c.regs ∧ (drive e c).int = c.int ∧ (drive e c).evc = c.evc ∧ (drive e c).port = c.port
    ∧ (drive e c).grp = c.grp ∧ (drive e c).frPace = c.frPace ∧ (drive e c).chv = c.chv ∧ (drive e c).lfsrPort = c.lfsrPort ∧ (drive e
    c).lfsrQ = c.lfsrQ ∧ (drive e c).lfsrHp = c.lfsrHp ∧ (drive e c).mov = c.mov ∧ (drive e c).lnd = c.lnd ∧ (drive e c).srl = c.srl ∧
    (drive e c).prt = c.prt ∧ (drive e c).pwr = c.pwr ∧ (drive e c).lov = c.lov ∧ (drive e c).dev = c.dev ∧ (drive e c).region =
    c.region ∧ (drive e c).tapIr = c.tapIr ∧ (drive e c).tap = c.tap ∧ (drive e c).report = c.report ∧ (drive e c).free = c.free := by
  obtain ⟨_, h⟩ := drive_cases e c
  rw [h]
  exact ⟨rfl, rfl, rfl, rfl, rfl, rfl, rfl, rfl, rfl, rfl, rfl, rfl, rfl, rfl, rfl, rfl, rfl, rfl, rfl, rfl, rfl, rfl, rfl, rfl, rfl, rfl,
    rfl, rfl⟩

@[simp] theorem modRun_frame (q : Nat) (f : Run → Run) (c : Ctl) :
    (modRun q f c).part = c.part ∧ (modRun q f c).fuse = c.fuse ∧ (modRun q f c).pin = c.pin ∧ (modRun q f c).out = c.out ∧ (modRun q f
    c).edge = c.edge ∧ (modRun q f c).pc = c.pc ∧ (modRun q f c).rtc = c.rtc ∧ (modRun q f c).regs = c.regs ∧ (modRun q f c).int = c.int
    ∧ (modRun q f c).evc = c.evc ∧ (modRun q f c).port = c.port ∧ (modRun q f c).grp = c.grp ∧ (modRun q f c).frPace = c.frPace ∧
    (modRun q f c).chv = c.chv ∧ (modRun q f c).lfsrPort = c.lfsrPort ∧ (modRun q f c).lfsrQ = c.lfsrQ ∧ (modRun q f c).lfsrHp =
    c.lfsrHp ∧ (modRun q f c).lnd = c.lnd ∧ (modRun q f c).srl = c.srl ∧ (modRun q f c).prt = c.prt ∧ (modRun q f c).pwr = c.pwr ∧
    (modRun q f c).lov = c.lov ∧ (modRun q f c).dev = c.dev ∧ (modRun q f c).region = c.region ∧ (modRun q f c).tapIr = c.tapIr ∧
    (modRun q f c).tap = c.tap ∧ (modRun q f c).report = c.report ∧ (modRun q f c).free = c.free ∧ (modRun q f c).mov.rr = c.mov.rr ∧
    (modRun q f c).mov.sa = c.mov.sa ∧ (modRun q f c).mov.saBeats = c.mov.saBeats ∧ (modRun q f c).mov.td = c.mov.td ∧ (modRun q f
    c).mov.lpCredit = c.mov.lpCredit ∧ (modRun q f c).mov.lpGiven = c.mov.lpGiven ∧ (modRun q f c).mov.hotSince = c.mov.hotSince ∧
    (modRun q f c).mov.sqIdle = c.mov.sqIdle ∧ (modRun q f c).mov.lpOwed = c.mov.lpOwed ∧ (modRun q f c).mov.saCredit = c.mov.saCredit ∧
    (modRun q f c).mov.paceNow = c.mov.paceNow ∧ (modRun q f c).mov.sqNow = c.mov.sqNow ∧ (modRun q f c).mov.saOwed = c.mov.saOwed ∧
    (modRun q f c).mov.wd = c.mov.wd := by
  obtain ⟨_, h⟩ := modRun_cases q f c
  rw [h]
  exact ⟨rfl, rfl, rfl, rfl, rfl, rfl, rfl, rfl, rfl, rfl, rfl, rfl, rfl, rfl, rfl, rfl, rfl, rfl, rfl, rfl, rfl, rfl, rfl, rfl, rfl, rfl,
    rfl, rfl, rfl, rfl, rfl, rfl, rfl, rfl, rfl, rfl, rfl, rfl, rfl, rfl, rfl, rfl⟩

@[simp] theorem setRegion_frame (x : Option RegScrub) (c : Ctl) :
    (setRegion x c).part = c.part ∧ (setRegion x c).fuse = c.fuse ∧ (setRegion x c).pin = c.pin ∧ (setRegion x c).out = c.out ∧ (setRegion x
    c).edge = c.edge ∧ (setRegion x c).pc = c.pc ∧ (setRegion x c).rtc = c.rtc ∧ (setRegion x c).regs = c.regs ∧ (setRegion x c).int = c.int
    ∧ (setRegion x c).evc = c.evc ∧ (setRegion x c).port = c.port ∧ (setRegion x c).grp = c.grp ∧ (setRegion x c).frPace = c.frPace ∧
    (setRegion x c).chv = c.chv ∧ (setRegion x c).lfsrPort = c.lfsrPort ∧ (setRegion x c).lfsrQ = c.lfsrQ ∧ (setRegion x c).lfsrHp =
    c.lfsrHp ∧ (setRegion x c).mov = c.mov ∧ (setRegion x c).lnd = c.lnd ∧ (setRegion x c).srl = c.srl ∧ (setRegion x c).pwr = c.pwr ∧
    (setRegion x c).lov = c.lov ∧ (setRegion x c).dev = c.dev ∧ (setRegion x c).region = c.region ∧ (setRegion x c).tapIr = c.tapIr ∧
    (setRegion x c).tap = c.tap ∧ (setRegion x c).report = c.report ∧ (setRegion x c).free = c.free ∧ (setRegion x c).prt.cap = c.prt.cap ∧
    (setRegion x c).prt.logLast = c.prt.logLast ∧ (setRegion x c).prt.lane = c.prt.lane ∧ (setRegion x c).prt.scrub = c.prt.scrub ∧
    (setRegion x c).prt.scrubDone = c.prt.scrubDone ∧ (setRegion x c).prt.passStart = c.prt.passStart ∧ (setRegion x c).prt.hour =
    c.prt.hour ∧ (setRegion x c).prt.hourStart = c.prt.hourStart ∧ (setRegion x c).prt.mig = c.prt.mig ∧ (setRegion x c).prt.moved =
    c.prt.moved ∧ (setRegion x c).prt.retired = c.prt.retired ∧ (setRegion x c).prt.retLog = c.prt.retLog ∧ (setRegion x c).prt.badCommitted
    = c.prt.badCommitted ∧ (setRegion x c).prt.badMig = c.prt.badMig ∧ (setRegion x c).prt.pendingBad = c.prt.pendingBad ∧ (setRegion x
    c).prt.acien = c.prt.acien ∧ (setRegion x c).prt.tagWait = c.prt.tagWait :=
  ⟨rfl, rfl, rfl, rfl, rfl, rfl, rfl, rfl, rfl, rfl, rfl, rfl, rfl, rfl, rfl, rfl, rfl, rfl, rfl, rfl, rfl, rfl, rfl, rfl, rfl, rfl,
    rfl, rfl, rfl, rfl, rfl, rfl, rfl, rfl, rfl, rfl, rfl, rfl, rfl, rfl, rfl, rfl, rfl, rfl, rfl⟩

@[simp] theorem dropGroups_frame (f : Nat → Bool) (c : Ctl) :
    (dropGroups f c).part = c.part ∧ (dropGroups f c).fuse = c.fuse ∧ (dropGroups f c).pin = c.pin ∧ (dropGroups f c).out = c.out ∧
    (dropGroups f c).edge = c.edge ∧ (dropGroups f c).pc = c.pc ∧ (dropGroups f c).rtc = c.rtc ∧ (dropGroups f c).regs = c.regs ∧
    (dropGroups f c).int = c.int ∧ (dropGroups f c).evc = c.evc ∧ (dropGroups f c).port = c.port ∧ (dropGroups f c).grp = c.grp ∧
    (dropGroups f c).frPace = c.frPace ∧ (dropGroups f c).chv = c.chv ∧ (dropGroups f c).lfsrPort = c.lfsrPort ∧ (dropGroups f c).lfsrQ =
    c.lfsrQ ∧ (dropGroups f c).lfsrHp = c.lfsrHp ∧ (dropGroups f c).mov = c.mov ∧ (dropGroups f c).lnd = c.lnd ∧ (dropGroups f c).srl =
    c.srl ∧ (dropGroups f c).pwr = c.pwr ∧ (dropGroups f c).lov = c.lov ∧ (dropGroups f c).dev = c.dev ∧ (dropGroups f c).region = c.region
    ∧ (dropGroups f c).tapIr = c.tapIr ∧ (dropGroups f c).tap = c.tap ∧ (dropGroups f c).report = c.report ∧ (dropGroups f c).free = c.free
    ∧ (dropGroups f c).prt.cap = c.prt.cap ∧ (dropGroups f c).prt.logLast = c.prt.logLast ∧ (dropGroups f c).prt.lane = c.prt.lane ∧
    (dropGroups f c).prt.scrub = c.prt.scrub ∧ (dropGroups f c).prt.scrubDone = c.prt.scrubDone ∧ (dropGroups f c).prt.passStart =
    c.prt.passStart ∧ (dropGroups f c).prt.hour = c.prt.hour ∧ (dropGroups f c).prt.hourStart = c.prt.hourStart ∧ (dropGroups f c).prt.mig =
    c.prt.mig ∧ (dropGroups f c).prt.moved = c.prt.moved ∧ (dropGroups f c).prt.retired = c.prt.retired ∧ (dropGroups f c).prt.retLog =
    c.prt.retLog ∧ (dropGroups f c).prt.badCommitted = c.prt.badCommitted ∧ (dropGroups f c).prt.badMig = c.prt.badMig ∧ (dropGroups f
    c).prt.pendingBad = c.prt.pendingBad ∧ (dropGroups f c).prt.acien = c.prt.acien ∧ (dropGroups f c).prt.region = c.prt.region :=
  ⟨rfl, rfl, rfl, rfl, rfl, rfl, rfl, rfl, rfl, rfl, rfl, rfl, rfl, rfl, rfl, rfl, rfl, rfl, rfl, rfl, rfl, rfl, rfl, rfl, rfl, rfl,
    rfl, rfl, rfl, rfl, rfl, rfl, rfl, rfl, rfl, rfl, rfl, rfl, rfl, rfl, rfl, rfl, rfl, rfl, rfl⟩

@[simp] theorem nextSerial_frame (c : Ctl) :
    (nextSerial c).part = c.part ∧ (nextSerial c).fuse = c.fuse ∧ (nextSerial c).pin = c.pin ∧ (nextSerial c).out = c.out ∧ (nextSerial
    c).edge = c.edge ∧ (nextSerial c).pc = c.pc ∧ (nextSerial c).rtc = c.rtc ∧ (nextSerial c).regs = c.regs ∧ (nextSerial c).int = c.int ∧
    (nextSerial c).evc = c.evc ∧ (nextSerial c).grp = c.grp ∧ (nextSerial c).frPace = c.frPace ∧ (nextSerial c).chv = c.chv ∧ (nextSerial
    c).lfsrPort = c.lfsrPort ∧ (nextSerial c).lfsrQ = c.lfsrQ ∧ (nextSerial c).lfsrHp = c.lfsrHp ∧ (nextSerial c).mov = c.mov ∧ (nextSerial
    c).lnd = c.lnd ∧ (nextSerial c).srl = c.srl ∧ (nextSerial c).prt = c.prt ∧ (nextSerial c).pwr = c.pwr ∧ (nextSerial c).lov = c.lov ∧
    (nextSerial c).dev = c.dev ∧ (nextSerial c).region = c.region ∧ (nextSerial c).tapIr = c.tapIr ∧ (nextSerial c).tap = c.tap ∧
    (nextSerial c).report = c.report ∧ (nextSerial c).free = c.free ∧ (nextSerial c).port.regNo = c.port.regNo ∧ (nextSerial c).port.credit
    = c.port.credit ∧ (nextSerial c).port.reqs = c.port.reqs ∧ (nextSerial c).port.ops = c.port.ops ∧ (nextSerial c).port.parity =
    c.port.parity :=
  ⟨rfl, rfl, rfl, rfl, rfl, rfl, rfl, rfl, rfl, rfl, rfl, rfl, rfl, rfl, rfl, rfl, rfl, rfl, rfl, rfl, rfl, rfl, rfl, rfl, rfl, rfl,
    rfl, rfl, rfl, rfl, rfl, rfl, rfl⟩

@[simp] theorem setRegion_region (x : Option RegScrub) (c : Ctl) : (setRegion x c).prt.region = x := rfl
@[simp] theorem nextSerial_serial (c : Ctl) : (nextSerial c).port.serial = c.port.serial + 1 := rfl

/-- All that the arbiters on the way do: they number the accesses that wait, and put them into another order. -/
theorem toSlices_cases (c : Ctl) :
    toSlices c = c ∨ ∃ ops n, c.port.serial ≤ n ∧ toSlices c = { c with port := { c.port with serial := n, ops := ops } } := by
  unfold toSlices
  split
  · exact .inl rfl
  · exact .inr ⟨_, _, Nat.le_add_right _ _, rfl⟩

/-- Every access has reached its slice once the arbiters on the way have let through what waits at them. -/
theorem toSlices_here (c : Ctl) : ∀ o ∈ (toSlices c).port.ops, o.here = true := by
  unfold toSlices
  split
  · rename_i h
    intro o ho
    cases hh : o.here with
    | true => rfl
    | false =>
      have : o ∈ c.port.ops.filter (fun o => !o.here) := by simp [ho, hh]
      rw [h] at this
      cases this
  · intro o ho
    simp only [List.mem_append, List.mem_filter, List.mem_map] at ho
    rcases ho with ⟨_, h⟩ | ⟨x, _, rfl⟩
    · exact h
    · rfl

/-- What a ballast read of the scrubber leaves in Lovage's counts (R442): its energy is counted as extra, and in no estimate again. -/
@[simp] theorem ballastSpent_lov (tok : Nat) (c : Ctl) :
    (ballastSpent tok c).lov = { c.lov with extra := c.lov.extra + (c.lov.tok - tok), tok := tok } := rfl

/-- The admitted estimate lies between the static term and the limit of the interval, or is the static term (R440, R448, Table 11-7). -/
theorem drawnMw_bounds (c : Ctl) : staticMw c ≤ drawnMw c ∧ drawnMw c ≤ max (staticMw c) (limitMw c) := by
  unfold drawnMw
  omega

/-- The limit of an interval is never past the cap (R448). -/
theorem limitMw_le_cap (c : Ctl) : limitMw c ≤ capMw c := Nat.min_le_left _ _

/-- The admitted estimate is no higher than what the events of the interval draw (R438). -/
theorem drawnMw_le_counted (c : Ctl) : drawnMw c ≤ countedMw c := by
  unfold drawnMw countedMw
  omega

/-- What the presented write of a copy does (R400, R401): nothing before the line is read, a new start where the line has changed since, and else
the write once the spare's arbiter grants it. -/
theorem copyPut_cases (z : Nat) (l : Loc) (s : State) :
    (((migOf s.ctl z).got = none ∨ (migOf s.ctl z).put = none) ∧ copyPut z l s = s)
      ∨ ∃ r lost a, (migOf s.ctl z).got = some (r, lost) ∧ (migOf s.ctl z).put = some a ∧
        ((copyStale l r lost s = true ∧ copyPut z l s = s.onCtl (setMig z { migOf s.ctl z with asked := none, got := none, put := none }))
          ∨ (copyStale l r lost s = false ∧ (copyPut z l s = s
            ∨ copyPut z l s = (copyWatermark z l r lost (s.onCtl (ageOthers (migOf s.ctl z).spare none (some a.serial)))).onCtl pump))) := by
  unfold copyPut
  dsimp only
  cases hg : (migOf s.ctl z).got with
  | none => exact .inl ⟨.inl rfl, rfl⟩
  | some x =>
    obtain ⟨r, lost⟩ := x
    cases hp : (migOf s.ctl z).put with
    | none => exact .inl ⟨.inr rfl, rfl⟩
    | some a =>
      refine .inr ⟨r, lost, a, rfl, rfl, ?_⟩
      dsimp only
      cases hs : copyStale l r lost s with
      | true => exact .inl ⟨rfl, by simp⟩
      | false =>
        refine .inr ⟨rfl, ?_⟩
        simp only [Bool.false_eq_true, if_false]
        split
        · exact .inr rfl
        · exact .inl rfl

/-- What an instrument does (R527, R528): nothing where it is not reached, its act while DEV_HOLD is 1, and else its refusal. -/
theorem whileHeld_cases (here : Bool) (f : State → State) (s : State) :
    (here = false ∧ whileHeld here f s = s) ∨ (here = true ∧ s.ctl.pin.devHold = true ∧ whileHeld here f s = f s)
      ∨ (here = true ∧ s.ctl.pin.devHold = false ∧ whileHeld here f s = s.onCtl (fun c => { c with report := .refused })) := by
  unfold whileHeld
  cases here with
  | false => exact .inl ⟨rfl, rfl⟩
  | true =>
    cases h : s.ctl.pin.devHold with
    | true => exact .inr (.inl ⟨rfl, rfl, rfl⟩)
    | false => exact .inr (.inr ⟨rfl, rfl, rfl⟩)

/-- What Brural's own write does: it asks for the wakes that it waits for, or it is made. -/
theorem ownWrite_cases (tas : List Nat) (f : State → State) (s : State) :
    ((∃ k, ownAvail s tas = .wait k) ∧ ownWrite tas f s = s.onCtl (ownWakes tas))
      ∨ ((∀ k, ownAvail s tas ≠ .wait k) ∧ ownWrite tas f s = f s) := by
  unfold ownWrite
  cases ownAvail s tas with
  | wait k => exact .inl ⟨⟨k, rfl⟩, rfl⟩
  | ready => exact .inr ⟨fun _ h => (nomatch h), rfl⟩
  | absent => exact .inr ⟨fun _ h => (nomatch h), rfl⟩

end Sys2Proof.Machine
end

