-- ==== Sys2Proof/Laws/Store.lean ====
section
/-! SUPPORT. Laws of tensor memory: what a line reads after each operation, that the other lines read as before, and that every
operation keeps the canonical form `Store.wf`. -/

namespace Sys2Proof.Machine

theorem tabFind_append {α : Type} (t u : Tab α) (j : Nat) : tabFind (t ++ u) j = (tabFind t j).or (tabFind u j) := by
  induction t with
  | nil => simp [tabFind]
  | cons p r ih =>
    obtain ⟨i, w⟩ := p
    by_cases h : i = j <;> simp [tabFind, h, ih]

theorem tabSorted_append {α : Type} (t u : Tab α) (ht : tabSorted t = true) (hu : tabSorted u = true)
    (h : ∀ x ∈ t, ∀ y ∈ u, x.1 < y.1) : tabSorted (t ++ u) = true := by
  induction t with
  | nil => simpa using hu
  | cons p r ih =>
    simp only [tabSorted, Bool.and_eq_true, List.all_eq_true, decide_eq_true_eq] at ht
    simp only [List.cons_append, tabSorted, Bool.and_eq_true, List.all_eq_true, decide_eq_true_eq]
    refine ⟨fun x hx => ?_, ih ht.2 (fun x hx => h x (List.mem_cons_of_mem _ hx))⟩
    rcases List.mem_append.mp hx with hx | hx
    · exact ht.1 x hx
    · exact h p List.mem_cons_self x hx

/-- The listed bytes of one line. -/
def lineCells (k : Nat) (d : Line) (n : Nat) : List Host.Cell :=
  (List.range n).filterMap (fun i => if d.getD i 0 = 0 then none else some (64 * k + i, d.getD i 0))

theorem setLine_eq (k : Nat) (d : Line) (cs : List Host.Cell) :
    setLine k d cs = cs.filter (fun p => decide (p.1 < 64 * k)) ++ lineCells k d 64 ++ cs.filter (fun p => decide (64 * k + 64 ≤ p.1)) :=
  rfl

theorem lineCells_succ (k : Nat) (d : Line) (n : Nat) :
    lineCells k d (n + 1) = lineCells k d n ++ (if d.getD n 0 = 0 then [] else [(64 * k + n, d.getD n 0)]) := by
  unfold lineCells
  rw [List.range_succ, List.filterMap_append]
  by_cases h : d.getD n 0 = 0
  · simp only [List.filterMap_cons, List.filterMap_nil, h, if_true]
  · simp only [List.filterMap_cons, List.filterMap_nil, h, if_false]

theorem mem_lineCells (k : Nat) (d : Line) (n : Nat) (x : Host.Cell) (h : x ∈ lineCells k d n) :
    64 * k ≤ x.1 ∧ x.1 < 64 * k + n ∧ x.2 ≠ 0 := by
  obtain ⟨i, hi, hx⟩ := List.mem_filterMap.mp h
  rw [List.mem_range] at hi
  by_cases hd : d.getD i 0 = 0
  · rw [if_pos hd] at hx
    cases hx
  · rw [if_neg hd] at hx
    cases hx
    exact ⟨Nat.le_add_right _ _, Nat.add_lt_add_left hi _, hd⟩

theorem lineCells_sorted (k : Nat) (d : Line) (n : Nat) : tabSorted (lineCells k d n) = true := by
  induction n with
  | zero => rfl
  | succ n ih =>
    rw [lineCells_succ]
    refine tabSorted_append _ _ ih ?_ (fun x hx y hy => ?_)
    · by_cases h : d.getD n 0 = 0
      · rw [if_pos h]; rfl
      · rw [if_neg h]; rfl
    · have hx := mem_lineCells k d n x hx
      by_cases h : d.getD n 0 = 0
      · rw [if_pos h] at hy; cases hy
      · rw [if_neg h] at hy
        rw [List.mem_singleton.mp hy]
        exact hx.2.1

theorem tabFind_lineCells_out (k : Nat) (d : Line) (n a : Nat) (h : ¬ (64 * k ≤ a ∧ a < 64 * k + n)) :
    tabFind (lineCells k d n) a = none := by
  induction n with
  | zero => rfl
  | succ n ih =>
    rw [lineCells_succ, tabFind_append, ih (by omega)]
    by_cases hd : d.getD n 0 = 0
    · rw [if_pos hd]; rfl
    · rw [if_neg hd]
      simp only [tabFind, if_neg (show ¬ 64 * k + n = a by omega), Option.or_none]

theorem tabGet_lineCells (k : Nat) (d : Line) (n a : Nat) :
    tabGet 0 (lineCells k d n) a = if 64 * k ≤ a ∧ a < 64 * k + n then d.getD (a - 64 * k) 0 else 0 := by
  induction n with
  | zero =>
    rw [if_neg (by omega)]
    rfl
  | succ n ih =>
    rw [lineCells_succ]
    unfold tabGet at *
    rw [tabFind_append]
    by_cases ha : a = 64 * k + n
    · subst ha
      rw [tabFind_lineCells_out k d n _ (by omega), Option.none_or]
      have hc : 64 * k ≤ 64 * k + n ∧ 64 * k + n < 64 * k + (n + 1) := by omega
      rw [if_pos hc, Nat.add_sub_cancel_left]
      by_cases h : d.getD n 0 = 0
      · rw [if_pos h, h]; rfl
      · rw [if_neg h]
        simp only [tabFind, if_true, Option.getD_some]
    · have htail : tabFind (if d.getD n 0 = 0 then [] else [(64 * k + n, d.getD n 0)]) a = none := by
        by_cases h : d.getD n 0 = 0
        · rw [if_pos h]; rfl
        · rw [if_neg h]
          simp only [tabFind, if_neg (fun e : 64 * k + n = a => ha e.symm)]
      rw [htail, Option.or_none, ih]
      by_cases h1 : 64 * k ≤ a ∧ a < 64 * k + n
      · rw [if_pos h1, if_pos (by omega)]
      · rw [if_neg h1, if_neg (by omega)]

/-- A byte after the 64 bytes of line `k` are replaced. -/
theorem tabGet_setLine (k : Nat) (d : Line) (cs : List Host.Cell) (a : Nat) :
    tabGet 0 (setLine k d cs) a = if 64 * k ≤ a ∧ a < 64 * k + 64 then d.getD (a - 64 * k) 0 else tabGet 0 cs a := by
  have hl := tabFind_filter (fun i => decide (i < 64 * k)) cs a
  have hr := tabFind_filter (fun i => decide (64 * k + 64 ≤ i)) cs a
  unfold tabGet
  rw [setLine_eq, tabFind_append, tabFind_append, hl, hr]
  by_cases h1 : a < 64 * k
  · simp [h1, tabFind_lineCells_out k d 64 a (by omega), show ¬ 64 * k + 64 ≤ a by omega, show ¬ 64 * k ≤ a by omega]
  · by_cases h2 : 64 * k + 64 ≤ a
    · simp [h1, h2, tabFind_lineCells_out k d 64 a (by omega), show ¬ a < 64 * k + 64 by omega]
    · have h3 := tabGet_lineCells k d 64 a
      rw [if_pos (by omega)] at h3
      unfold tabGet at h3
      rw [if_pos (show 64 * k ≤ a ∧ a < 64 * k + 64 by omega), ← h3]
      simp [h1, h2]

theorem setLine_wf (k : Nat) (d : Line) (cs : List Host.Cell) (h : tabWf (0 : Byte) cs = true) :
    tabWf (0 : Byte) (setLine k d cs) = true := by
  have h1 := h
  simp only [tabWf, Bool.and_eq_true, List.all_eq_true, decide_eq_true_eq] at h1 ⊢
  rw [setLine_eq]
  refine ⟨tabSorted_append _ _ (tabSorted_append _ _ (tabSorted_filter _ _ h1.1) (lineCells_sorted k d 64) ?_)
    (tabSorted_filter _ _ h1.1) ?_, ?_⟩
  · intro x hx y hy
    have := (List.mem_filter.mp hx).2
    simp only [decide_eq_true_eq] at this
    exact Nat.lt_of_lt_of_le this (mem_lineCells k d 64 y hy).1
  · intro x hx y hy
    have hy := (List.mem_filter.mp hy).2
    simp only [decide_eq_true_eq] at hy
    rcases List.mem_append.mp hx with hx | hx
    · have hx := (List.mem_filter.mp hx).2
      simp only [decide_eq_true_eq] at hx
      omega
    · have hx := mem_lineCells k d 64 x hx
      omega
  · intro x hx
    rcases List.mem_append.mp hx with hx | hx
    · rcases List.mem_append.mp hx with hx | hx
      · exact h1.2 x (List.mem_filter.mp hx).1
      · exact (mem_lineCells k d 64 x hx).2.2
    · exact h1.2 x (List.mem_filter.mp hx).1

/-! Writes of one line. -/

theorem touch_cells (k : Nat) (st : Store) : (st.touch k).cells = st.cells := by
  unfold Store.touch; split <;> rfl

theorem touch_tags (k : Nat) (st : Store) : (st.touch k).tags = st.tags := by
  unfold Store.touch; split <;> rfl

theorem touch_upsets (k : Nat) (st : Store) : (st.touch k).upsets = st.upsets := by
  unfold Store.touch; split <;> rfl

theorem touch_blur (k : Nat) (st : Store) : (st.touch k).blur = st.blur := by
  unfold Store.touch; split <;> rfl

theorem touch_sharp_sorted (k : Nat) (st : Store) (h : tabSorted st.sharp = true) : tabSorted (st.touch k).sharp = true := by
  unfold Store.touch; split
  · exact tabSorted_tabIns _ _ _ h
  · exact h

/-- A line that has been written shows no save-area image. -/
theorem touch_image_same (k : Nat) (st : Store) : (st.touch k).image k = none := by
  unfold Store.touch Store.image
  cases hb : st.blur with
  | none => simp [hb]
  | some g => by_cases hs : isSaveKey k = true <;> simp [hb, hs, tabFind_tabIns]

theorem touch_image_ne (k j : Nat) (st : Store) (h : k ≠ j) : (st.touch k).image j = st.image j := by
  have hs : tabFind (st.touch k).sharp j = tabFind st.sharp j := by
    unfold Store.touch
    split
    · simp [tabFind_tabIns, h]
    · rfl
  unfold Store.image
  rw [touch_blur, hs]

/-- The image shown depends on the save-area fields alone. -/
theorem image_congr (s t : Store) (k : Nat) (hb : t.blur = s.blur) (hs : t.sharp = s.sharp) : t.image k = s.image k := by
  unfold Store.image; rw [hb, hs]

theorem mine_get (cs : List Host.Cell) (k i : Nat) (hi : i < 64) :
    tabGet 0 (cs.filter (fun p => decide (64 * k ≤ p.1 ∧ p.1 < 64 * k + 64))) (64 * k + i) = tabGet 0 cs (64 * k + i) := by
  have h := tabFind_filter (fun a => decide (64 * k ≤ a ∧ a < 64 * k + 64)) cs (64 * k + i)
  rw [if_pos (by simpa using hi)] at h
  unfold tabGet; rw [h]

/-- The bytes of a line that shows no save-area image. -/
theorem data_of_image_none (st : Store) (k : Nat) (h : st.image k = none) :
    st.data k = (List.range 64).map (fun i => tabGet 0 st.cells (64 * k + i)) := by
  unfold Store.data; rw [h]
  exact List.map_congr_left (fun i hi => mine_get st.cells k i (List.mem_range.mp hi))

/-- The bytes of a line depend on the image shown and on its own cells. -/
theorem data_congr (s t : Store) (k : Nat) (hi : t.image k = s.image k)
    (hc : ∀ i, i < 64 → tabGet 0 t.cells (64 * k + i) = tabGet 0 s.cells (64 * k + i)) : t.data k = s.data k := by
  cases h : s.image k with
  | none =>
    rw [data_of_image_none t k (hi.trans h), data_of_image_none s k h]
    exact List.map_congr_left (fun i hl => hc i (List.mem_range.mp hl))
  | some g =>
    unfold Store.data; rw [hi, h]

/-- A line that keeps its image, its cells and its tag reads as before. -/
theorem marks_congr (s t : Store) (k : Nat) (hi : t.image k = s.image k)
    (hc : ∀ i, i < 64 → tabGet 0 t.cells (64 * k + i) = tabGet 0 s.cells (64 * k + i)) (ht : tabFind t.tags k = tabFind s.tags k) :
    t.isZero k = s.isZero k ∧ t.isPoison k = s.isPoison k ∧ t.isLost k = s.isLost k := by
  unfold Store.isZero Store.isPoison Store.isLost
  rw [hi, ht, data_congr s t k hi hc]
  exact ⟨rfl, rfl, rfl⟩

theorem map_getD_range (d : Line) (h : d.length = 64) : (List.range 64).map (fun i => d.getD i 0) = d := by
  apply List.ext_getElem
  · simp [h]
  · intro i h1 h2
    simp [List.getD_eq_getElem?_getD, h2]

/-- A written line reads what was written. -/
theorem put_data_same (k : Nat) (d : Line) (st : Store) (h : d.length = 64) : (st.put k d).data k = d := by
  have hi : (st.put k d).image k = none := (image_congr (st.touch k) (st.put k d) k rfl rfl).trans (touch_image_same k st)
  rw [data_of_image_none _ _ hi]
  refine (List.map_congr_left (fun i hi => ?_)).trans (map_getD_range d h)
  show tabGet 0 (setLine k d (st.touch k).cells) (64 * k + i) = d.getD i 0
  rw [tabGet_setLine, if_pos ⟨Nat.le_add_right _ _, Nat.add_lt_add_left (List.mem_range.mp hi) _⟩, Nat.add_sub_cancel_left]

/-- A written line is a zero line exactly when it was written with zeros (R263), and is not poisoned. -/
theorem put_marks_same (k : Nat) (d : Line) (st : Store) :
    (st.put k d).isZero k = allZero d ∧ (st.put k d).isPoison k = false ∧ (st.put k d).isLost k = false := by
  have hi : (st.put k d).image k = none := (image_congr (st.touch k) (st.put k d) k rfl rfl).trans (touch_image_same k st)
  have ht : tabFind (st.put k d).tags k = if allZero d then none else some .data := by
    show tabFind (if allZero d then tabDel k (st.touch k).tags else tabIns k .data (st.touch k).tags) k = _
    split <;> simp [tabFind_tabDel, tabFind_tabIns]
  unfold Store.isZero Store.isPoison Store.isLost
  rw [hi, ht]
  cases allZero d <;> exact ⟨rfl, rfl, rfl⟩

/-- A write leaves every other line as it was. -/
theorem put_ne (k j : Nat) (d : Line) (st : Store) (h : k ≠ j) :
    (st.put k d).data j = st.data j ∧ (st.put k d).isZero j = st.isZero j ∧ (st.put k d).isPoison j = st.isPoison j
      ∧ (st.put k d).isLost j = st.isLost j := by
  have hi : (st.put k d).image j = st.image j :=
    (image_congr (st.touch k) (st.put k d) j rfl rfl).trans (touch_image_ne k j st h)
  have hc : ∀ i, i < 64 → tabGet 0 (st.put k d).cells (64 * j + i) = tabGet 0 st.cells (64 * j + i) := by
    intro i hl
    show tabGet 0 (setLine k d (st.touch k).cells) (64 * j + i) = _
    rw [tabGet_setLine, if_neg (by omega), touch_cells]
  have ht : tabFind (st.put k d).tags j = tabFind st.tags j := by
    show tabFind (if allZero d then tabDel k (st.touch k).tags else tabIns k .data (st.touch k).tags) j = _
    have h2 : ¬ j = k := fun e => h e.symm
    rw [touch_tags]
    split <;> simp [tabFind_tabDel, tabFind_tabIns, h, h2]
  exact ⟨data_congr st _ j hi hc, marks_congr st _ j hi hc ht⟩

/-- A poisoned line is no zero line and reads as poison (R375); it is lost exactly when it is marked with its lost tag group (R267). -/
theorem poison_marks_same (b : Bool) (k : Nat) (st : Store) :
    (st.poison b k).isZero k = false ∧ (st.poison b k).isPoison k = true ∧ (st.poison b k).isLost k = b := by
  have hi : (st.poison b k).image k = none := (image_congr (st.touch k) (st.poison b k) k rfl rfl).trans (touch_image_same k st)
  have ht : tabFind (st.poison b k).tags k = some (if b then .lost else .poisoned) := by
    show tabFind (tabIns k _ (st.touch k).tags) k = _
    simp [tabFind_tabIns]
  unfold Store.isZero Store.isPoison Store.isLost
  rw [hi, ht]
  cases b <;> exact ⟨rfl, rfl, rfl⟩

/-- Poisoning a line leaves every other line as it was. -/
theorem poison_ne (b : Bool) (k j : Nat) (st : Store) (h : k ≠ j) :
    (st.poison b k).data j = st.data j ∧ (st.poison b k).isZero j = st.isZero j ∧ (st.poison b k).isPoison j = st.isPoison j
      ∧ (st.poison b k).isLost j = st.isLost j := by
  have hi : (st.poison b k).image j = st.image j :=
    (image_congr (st.touch k) (st.poison b k) j rfl rfl).trans (touch_image_ne k j st h)
  have hc : ∀ i, i < 64 → tabGet 0 (st.poison b k).cells (64 * j + i) = tabGet 0 st.cells (64 * j + i) := by
    intro i hl
    show tabGet 0 (setLine k zeroLine (st.touch k).cells) (64 * j + i) = _
    rw [tabGet_setLine, if_neg (by omega), touch_cells]
  have ht : tabFind (st.poison b k).tags j = tabFind st.tags j := by
    show tabFind (tabIns k _ (st.touch k).tags) j = _
    rw [touch_tags]
    simp [tabFind_tabIns, h]
  exact ⟨data_congr st _ j hi hc, marks_congr st _ j hi hc ht⟩

/-- Flipped bits change no byte, zero bit or poison mark. -/
@[simp] theorem setUpset_data (k j : Nat) (u : List Nat) (st : Store) : (st.setUpset k u).data j = st.data j := rfl
@[simp] theorem setUpset_isZero (k j : Nat) (u : List Nat) (st : Store) : (st.setUpset k u).isZero j = st.isZero j := rfl
@[simp] theorem setUpset_isPoison (k j : Nat) (u : List Nat) (st : Store) : (st.setUpset k u).isPoison j = st.isPoison j := rfl

theorem upset_cases (k : Nat) (up : List Nat) (st : Store) : st.upset k up = st ∨ ∃ u, st.upset k up = st.setUpset k u := by
  unfold Store.upset
  split
  · exact .inl rfl
  · exact .inr ⟨_, rfl⟩

/-! The canonical form. -/

theorem wf_iff (st : Store) : st.wf = true ↔
    tabWf (0 : Byte) st.cells = true ∧ tabSorted st.tags = true ∧ tabWf ([] : List Nat) st.upsets = true ∧ tabSorted st.sharp = true := by
  simp only [Store.wf, Bool.and_eq_true, and_assoc]

theorem empty_wf : Store.empty.wf = true := rfl

theorem put_wf (k : Nat) (d : Line) (st : Store) (h : st.wf = true) : (st.put k d).wf = true := by
  rw [wf_iff] at h ⊢
  refine ⟨setLine_wf k d _ (by rw [touch_cells]; exact h.1), ?_, ?_, touch_sharp_sorted k st h.2.2.2⟩
  · show tabSorted (if allZero d then tabDel k (st.touch k).tags else tabIns k .data (st.touch k).tags) = true
    rw [touch_tags]
    split
    · exact tabSorted_tabDel k _ h.2.1
    · exact tabSorted_tabIns k _ _ h.2.1
  · show tabWf _ (tabDel k (st.touch k).upsets) = true
    rw [touch_upsets]
    exact tabWf_filter _ _ _ h.2.2.1

theorem poison_wf (b : Bool) (k : Nat) (st : Store) (h : st.wf = true) : (st.poison b k).wf = true := by
  rw [wf_iff] at h ⊢
  refine ⟨setLine_wf k zeroLine _ (by rw [touch_cells]; exact h.1), ?_, ?_, touch_sharp_sorted k st h.2.2.2⟩
  · show tabSorted (tabIns k _ (st.touch k).tags) = true
    rw [touch_tags]
    exact tabSorted_tabIns k _ _ h.2.1
  · show tabWf _ (tabDel k (st.touch k).upsets) = true
    rw [touch_upsets]
    exact tabWf_filter _ _ _ h.2.2.1

theorem setUpset_wf (k : Nat) (u : List Nat) (st : Store) (h : st.wf = true) : (st.setUpset k u).wf = true := by
  rw [wf_iff] at h ⊢
  exact ⟨h.1, h.2.1, tabWf_tabPut _ k u _ h.2.2.1, h.2.2.2⟩

theorem upset_wf (k : Nat) (up : List Nat) (st : Store) (h : st.wf = true) : (st.upset k up).wf = true := by
  rcases upset_cases k up st with e | ⟨u, e⟩
  · rw [e]; exact h
  · rw [e]; exact setUpset_wf k u st h

theorem sharp_foldl_sorted (p b : Nat) (l : List Nat) (t : Tab Unit) (h : tabSorted t = true) :
    tabSorted (l.foldl (fun t i => tabIns (physKey p b (256 + i)) () t) t) = true := by
  induction l generalizing t with
  | nil => exact h
  | cons i r ih => exact ih _ (tabSorted_tabIns _ _ _ h)

theorem wipeBank_wf (p b : Nat) (st : Store) (h : st.wf = true) : (st.wipeBank p b).wf = true := by
  rw [wf_iff] at h ⊢
  refine ⟨tabWf_filter _ _ _ h.1, tabSorted_filter _ _ h.2.1, tabWf_filter _ _ _ h.2.2.1, ?_⟩
  show tabSorted (if st.blur.isSome && decide (p < 72 ∧ b = 15) then _ else st.sharp) = true
  split
  · exact sharp_foldl_sorted p b _ _ h.2.2.2
  · exact h.2.2.2

theorem clearWhere_wf (f : Nat → Bool) (st : Store) (h : st.wf = true) : (st.clearWhere f).wf = true := by
  rw [wf_iff] at h ⊢
  exact ⟨tabWf_filter _ _ _ h.1, tabSorted_filter _ _ h.2.1, tabWf_filter _ _ _ h.2.2.1, h.2.2.2⟩

theorem save_wf (g : Nat) (st : Store) (h : st.wf = true) : (st.save g).wf = true := by
  rw [wf_iff] at h ⊢
  exact ⟨tabWf_filter _ _ _ h.1, tabSorted_filter _ _ h.2.1, tabWf_filter _ _ _ h.2.2.1, rfl⟩

/-- Clearing lines by a test leaves the lines that fail it as they were. -/
theorem clearWhere_ne (f : Nat → Bool) (k : Nat) (st : Store) (h : f k = false) :
    (st.clearWhere f).data k = st.data k ∧ (st.clearWhere f).isZero k = st.isZero k ∧ (st.clearWhere f).isPoison k = st.isPoison k
      ∧ (st.clearWhere f).isLost k = st.isLost k := by
  have hc : ∀ i, i < 64 → tabGet 0 (st.clearWhere f).cells (64 * k + i) = tabGet 0 st.cells (64 * k + i) := by
    intro i hl
    have e := tabFind_filter (fun a => !f (a / 64)) st.cells (64 * k + i)
    have hd : (64 * k + i) / 64 = k := by omega
    rw [if_pos (by simp [hd, h])] at e
    unfold tabGet
    exact congrArg (fun o => Option.getD o 0) e
  have ht : tabFind (st.clearWhere f).tags k = tabFind st.tags k := by
    have e := tabFind_filter (fun a => !f a) st.tags k
    rw [if_pos (by simp [h])] at e
    exact e
  exact ⟨data_congr st _ k rfl hc, marks_congr st _ k rfl hc ht⟩

end Sys2Proof.Machine
end

