-- ==== Sys2Proof/Laws/Array.lean ====
section
/-! SUPPORT. What the accesses of a slice to its lines can change: they keep the canonical form of memory and the queue of waiting
commands, and a read of a line changes no line that it does not correct. -/

namespace Sys2Proof.Machine

/-- The state keeps the canonical form of memory and its queue. -/
def Keeps (s t : State) : Prop := (s.store.wf = true → t.store.wf = true) ∧ t.pending = s.pending

theorem Keeps.refl (s : State) : Keeps s s := ⟨id, rfl⟩

theorem Keeps.trans {s t u : State} (h : Keeps s t) (g : Keeps t u) : Keeps s u := ⟨fun w => g.1 (h.1 w), g.2.trans h.2⟩

theorem keeps_onCtl (f : Ctl → Ctl) (s : State) : Keeps s (s.onCtl f) := ⟨id, rfl⟩

theorem keeps_onStore (f : Store → Store) (s : State) (h : ∀ st : Store, st.wf = true → (f st).wf = true) : Keeps s (s.onStore f) :=
  ⟨h s.store, rfl⟩

theorem keeps_foldl {α : Type} (f : State → α → State) (h : ∀ s a, Keeps s (f s a)) (l : List α) (s : State) : Keeps s (l.foldl f s) := by
  induction l generalizing s with
  | nil => exact Keeps.refl s
  | cons a r ih => exact (h s a).trans (ih (f s a))

theorem bankUp_keeps (p b : Nat) (s : State) : Keeps s (bankUp p b s) := by
  unfold bankUp
  refine Keeps.trans ?_ (keeps_onCtl _ _)
  split
  · exact keeps_onStore _ s (fun st h => wipeBank_wf _ _ _ h)
  · exact Keeps.refl s

theorem storeLine_keeps (l : Loc) (d : Line) (poison : Bool) (s : State) : Keeps s (storeLine l d poison s) := by
  refine (keeps_onCtl _ s).trans (keeps_onStore _ _ (fun st h => ?_))
  cases poison
  · exact put_wf _ _ _ h
  · exact poison_wf _ _ _ h

theorem storeParity_keeps (l : Loc) (d : Line) (s : State) : Keeps s (storeParity l d s) :=
  (storeLine_keeps l d false s).trans (keeps_onCtl _ _)

/-- A read of the array, with its write-back and its counts, keeps the canonical form and the queue. -/
theorem readRaw_keeps (l : Loc) (up : Upset) (s : State) : Keeps s (readRaw l up s).1 := by
  unfold readRaw
  dsimp only
  generalize rawRead s.store (keyOf s.ctl l) up s.ctl.free = x
  obtain ⟨r, n⟩ := x
  have h1 : Keeps s ((s.onCtl (fun c => if r = .zero then c else touchBank l { c with free := n })).onStore (Store.upset (keyOf s.ctl l) up)) :=
    (keeps_onCtl _ s).trans (keeps_onStore _ _ (fun st h => upset_wf _ _ _ h))
  generalize ((s.onCtl (fun c => if r = .zero then c else touchBank l { c with free := n })).onStore (Store.upset (keyOf s.ctl l) up)) = s1 at h1 ⊢
  cases r with
  | good d ces w syn =>
    dsimp only
    by_cases hc : ces = 0
    · rw [if_pos hc]; exact h1
    · rw [if_neg hc]; exact h1.trans ((keeps_onStore _ _ (fun st h => put_wf _ _ _ h)).trans (keeps_onCtl _ _))
  | poison => exact h1.trans (keeps_onStore _ _ (fun st h => setUpset_wf _ _ _ h))
  | zero => exact h1
  | bad w syn ces w' syn' =>
    dsimp only
    by_cases hc : ces = 0
    · rw [if_pos hc]; exact h1
    · rw [if_neg hc]; exact h1.trans (keeps_onCtl _ _)

theorem sumLine_keeps (k : Nat) (acc : State × Option Line) (l : Loc) : Keeps acc.1 (sumLine k acc l).1 := by
  have h := readRaw_keeps l [] acc.1
  unfold sumLine
  split
  · exact Keeps.refl _
  · generalize readRaw l [] acc.1 = x at h ⊢
    obtain ⟨s, r⟩ := x
    have h1 := h.trans (keeps_onCtl (countBeside k l false (decide (r = .zero))) s)
    dsimp only
    split <;> exact h1

theorem sumLines_keeps (k : Nat) (ls : List Loc) (acc : State × Option Line) : Keeps acc.1 (ls.foldl (sumLine k) acc).1 := by
  induction ls generalizing acc with
  | nil => exact Keeps.refl _
  | cons l r ih => exact (sumLine_keeps k acc l).trans (ih (sumLine k acc l))

theorem sumOthers_keeps (ta : Nat) (s : State) : Keeps s (sumOthers ta s).1 := by
  have h := sumLines_keeps 1 (stripeBut s.ctl ta) (s, some zeroLine)
  unfold sumOthers
  dsimp only
  generalize (stripeBut s.ctl ta).foldl (sumLine 1) (s, some zeroLine) = x at h ⊢
  exact h

theorem readLine_keeps (ta : Nat) (l : Loc) (up : Upset) (s : State) : Keeps s (readLine ta l up s).1 := by
  have h := readRaw_keeps l up s
  unfold readLine
  dsimp only
  generalize readRaw l up s = x at h ⊢
  obtain ⟨s1, r⟩ := x
  have hp : ∀ u : State, Keeps s u → ∀ f : Ctl → Ctl, Keeps s ((u.onStore (Store.poison false (keyOf s.ctl l))).onCtl f) :=
    fun u hu f => hu.trans ((keeps_onStore _ _ (fun st h => poison_wf _ _ _ h)).trans (keeps_onCtl _ _))
  cases r with
  | zero => exact h
  | good d c w y => exact h
  | poison => exact h
  | bad w syn ces w' syn' =>
    dsimp only
    split
    · have h2 := h.trans (sumOthers_keeps ta s1)
      generalize sumOthers ta s1 = y at h2 ⊢
      obtain ⟨s2, d⟩ := y
      cases d with
      | none => exact hp s2 h2 _
      | some x => exact h2.trans ((keeps_onStore _ _ (fun st h => put_wf _ _ _ h)).trans (keeps_onCtl _ _))
    · exact hp s1 h _

theorem applyParity_keeps (ta : Nat) (up : Upset) (diff new : Line) (s : State) : Keeps s (applyParity ta up diff new s) := by
  unfold applyParity
  cases place s.ctl (parityTa ta) with
  | none => exact Keeps.refl s
  | some pl =>
    dsimp only
    split
    · exact Keeps.refl s
    have h := readRaw_keeps pl up s
    generalize readRaw pl up s = x at h ⊢
    obtain ⟨s0, r⟩ := x
    replace h := h.trans (keeps_onCtl (countBeside 1 pl false (decide (r = .zero))) s0)
    generalize s0.onCtl (countBeside 1 pl false (decide (r = .zero))) = s1 at h ⊢
    have h2 := h.trans (sumLines_keeps 1 ((stripeBut s1.ctl ta).filter (fun l => decide (l ≠ pl))) (s1, some new))
    generalize ((stripeBut s1.ctl ta).filter (fun l => decide (l ≠ pl))).foldl (sumLine 1) (s1, some new) = y at h2 ⊢
    obtain ⟨s2, d⟩ := y
    cases r with
    | zero => exact h.trans (storeParity_keeps _ _ _)
    | good d c w y => exact h.trans (storeParity_keeps _ _ _)
    | poison =>
      cases d with
      | some x => exact h2.trans ((storeParity_keeps _ _ _).trans (keeps_onCtl _ _))
      | none => exact h2.trans ((storeLine_keeps _ _ _ _).trans (keeps_onCtl _ _))
    | bad w y c w' y' =>
      cases d with
      | some x => exact h2.trans ((storeParity_keeps _ _ _).trans (keeps_onCtl _ _))
      | none => exact h2.trans ((storeLine_keeps _ _ _ _).trans (keeps_onCtl _ _))

theorem writeLine_keeps (ta : Nat) (l : Loc) (old : LineRes) (d : Line) (poison : Bool) (s : State) :
    Keeps s (writeLine ta l old d poison s) := by
  unfold writeLine
  dsimp only
  refine Keeps.trans ?_ (storeLine_keeps _ _ _ _)
  split
  · exact applyParity_keeps _ _ _ _ _
  · exact Keeps.refl s

/-- A line that Brural writes for itself keeps the canonical form and the queue. -/
theorem putLine_keeps (s : State) (p : Nat × Line × Nat) : Keeps s (putLine s p) := by
  unfold putLine
  cases place s.ctl p.1 with
  | none => exact Keeps.refl s
  | some l =>
    dsimp only
    split
    · exact Keeps.refl s
    split
    · exact (storeLine_keeps _ _ _ s).trans (keeps_onCtl _ _)
    · have h := readLine_keeps p.1 l [] s
      generalize readLine p.1 l [] s = x at h ⊢
      exact (h.trans (keeps_onCtl _ _)).trans ((storeLine_keeps _ _ _ _).trans (keeps_onCtl _ _))

theorem ownPump_keeps (s : State) : Keeps s (ownPump s) := by
  refine keeps_foldl _ (fun u x => ?_) _ s
  dsimp only
  split
  · exact keeps_onCtl _ u
  · exact (putLine_keeps u x).trans (keeps_onCtl _ _)

/-- Brural's own writes, at once or later, keep the canonical form and the queue. -/
theorem ownPut_keeps (ls : List (Nat × Line × Nat)) (s : State) : Keeps s (ownPut ls s) := (keeps_onCtl _ s).trans (ownPump_keeps _)

theorem putBytes_keeps (ta : Nat) (bs : List Byte) (s : State) : Keeps s (putBytes ta bs s) :=
  keeps_foldl _ putLine_keeps _ s

/-- An intact line is read without changing memory, and returns its bytes. -/
theorem rawRead_intact (st : Store) (k n : Nat) (hz : st.isZero k = false) (hp : st.isPoison k = false)
    (hu : tabFind st.upsets k = none) : rawRead st k [] n = (.good (patchWords (st.data k) (List.replicate 8 .clean)) 0 0 (syndromeOf []), n) := by
  have hf : flipMore (tabGet [] st.upsets k) [] = [] := by
    unfold tabGet
    rw [hu]
    unfold flipMore
    simp
  unfold rawRead
  rw [hz, hp, hf]
  rfl

end Sys2Proof.Machine
end

