-- ==== Sys2Proof/WellFormed.lean ====
section
/-! DEFINITION. Well-formed commands: every operand within the width of its signal or field, and naming a thing that exists. The machine answers
the others too; what it then does is the model's (log 1). -/

namespace Sys2Proof

/-- The port exists (Table 3-1). -/
def Port.ok (p : Port) : Bool :=
  match p with
  | .ma c => decide (c < 16)
  | .mb c => decide (c < 16)
  | .mc c => decide (c < 16)
  | .vx c => decide (c < 16)
  | .cd c => decide (c < 16)
  | .hp => true

/-- The core of a port, if it has one. -/
def Port.cores (p : Port) : List Nat :=
  match p with
  | .ma c => [c]
  | .mb c => [c]
  | .mc c => [c]
  | .vx c => [c]
  | .cd c => [c]
  | .hp => []

/-- Request fields within their widths (Table 3-2). -/
def RqFields.ok (f : RqFields) : Bool :=
  decide (f.addr < 2 ^ 36 ∧ f.len < 256 ∧ f.qos < 16 ∧ f.tag < 256 ∧ f.view < 4 ∧ f.seq < 256) && f.emask.all (fun w => decide (w < 2 ^ 32))

/-- Sorrel fields within their widths (Table 9-3). -/
def SyFields.ok (f : SyFields) : Bool := decide (f.obj < 1024 ∧ f.ph < 4 ∧ f.ctx < 64 ∧ f.seq < 256)

/-- Flipped bits lie in the line (R373). -/
def upsetOk (u : Upset) : Bool := u.all (fun i => decide (i < 576))

/-- The port of a stack, or outbound HP (R74, R75). -/
def SaPort.ok (p : SaPort) : Bool :=
  match p with
  | .sp s => decide (s < 20)
  | .hpo => true

/-- A physical bank (Table 1-1). -/
def bankOk (p b : Nat) : Bool := decide (p < 144 ∧ b < 48)

/-- A lane bundle, and lanes of it (R392). -/
def bundleOk (p t : Nat) : Bool := decide (p < 144 ∧ t < 3)
def lanesOk (ls : List Nat) : Bool := ls.all (fun l => decide (l < 18))

/-- Lines of 64 bytes. -/
def linesOk (ls : List Line) : Bool := ls.all (fun d => decide (d.length = 64))

/-- A hold source names a core (R467). -/
def HoldSrc.ok (h : HoldSrc) : Bool :=
  match h with
  | .reg _ _ => true
  | .zrst c => decide (c < 16)

def HoldSrc.cores (h : HoldSrc) : List Nat :=
  match h with
  | .reg _ _ => []
  | .zrst c => [c]

/-- A fatal condition names a slice or a zone (R386). -/
def FatalKind.ok (k : FatalKind) : Bool :=
  match k with
  | .sorrel => true
  | .committed s => decide (s < 128)
  | .migration z => decide (z < 16)
  | .image => true
  | .pending z => decide (z < 16)
  | .redirectCe z => decide (z < 16)
  | .sorrelCe => true

/-- A fuse entry names a place of a three-tier part (R531, R532). -/
def FuseEntry.ok (e : FuseEntry) : Bool :=
  match e with
  | .row b r => decide (b < 48 ∧ r < 2048)
  | .column b g i => decide (b < 48 ∧ g < 8 ∧ i < 576)
  | .lane t l => decide (t < 3 ∧ l < 18)

/-- One BIST result a bank (Table 14-6). -/
def bistOk (rs : List BistResult) : Bool :=
  decide (rs.length ≤ 6912) && rs.all (fun r => bankOk r.slice r.bank && r.rows.all (fun x => decide (x < 2048)))

/-- A TAP code has 8 bits (R525). -/
def TapOp.ok (t : TapOp) : Bool :=
  match t with
  | .load code => decide (code < 256)
  | .segments zones slices => zones.all (fun z => decide (z < 16)) && slices.all (fun p => decide (p < 144))
  | .tck _ _ => true
  | .reset => true

/-- A flash command has 8 bits (R460). -/
def Flash.ok (f : Flash) : Bool := f.enter4.all (fun x => decide (x < 256)) && f.octal.all (fun x => decide (x < 256))

/-- Header fields of an image slot within their widths (Table 12-4). -/
def Slot.ok (x : Slot) : Bool :=
  decide (x.magic < 2 ^ 32 ∧ x.format < 2 ^ 16 ∧ x.compat < 2 ^ 16 ∧ x.length < 2 ^ 32 ∧ x.flags < 2 ^ 32)

/-- The command's operands are in range. -/
def wellFormed (i : Instr) : Bool :=
  match i with
  | .read p f => p.ok && f.ok
  | .write p f => p.ok && f.ok
  | .zmap p f => p.ok && f.ok
  | .writeDataBeat p _ _ => p.ok
  | .responseCredit p => p.ok
  | .elasticResponseBeat p _ => p.ok
  | .fixedLagDelivery p => p.ok
  | .writeResponse p _ => p.ok
  | .sliceLineAccess s _ up => decide (s < 144) && upsetOk up
  | .guardedParityUpdate _ up => upsetOk up
  | .tagGroupReload s b g _ => bankOk s b && decide (g < 256)
  | .holdCutoff g => decide (g < 4)
  | .holdUnitEnd g => decide (g < 4)
  | .fullRateHold g => decide (g < 4)
  | .fullRatePacingChange _ _ => true
  | .thyHoldLong g => decide (g < 4)
  | .thyClr _ _ => true
  | .chervilRegister c => decide (c < 16)
  | .stampGap c => decide (c < 16)
  | .writeRangeRetire _ => true
  | .wcAgeFlush c ta => decide (c < 16) && decide (ta < 2 ^ 36)
  | .kEnd c seq => decide (c < 16) && decide (seq < 256)
  | .kEndRecord c => decide (c < 16)
  | .invalidationIssue c => decide (c < 16)
  | .vxInvDone c id => decide (c < 16) && decide (id < 16)
  | .invTimeout c id => decide (c < 16) && decide (id < 16)
  | .fenReseedZone _ _ => true
  | .fenReseedQueues _ => true
  | .fenReseedHp _ => true
  | .rgnEntWrite _ n _ => decide (n < 8192)
  | .regionClearComplete => true
  | .brlCtrlRemap _ _ => true
  | .movQtailWrite _ q _ => decide (q < 72)
  | .queueDoorbell c j tail seq => decide (c < 16) && decide (j < 4 ∧ tail < 65536 ∧ seq < 256)
  | .doorbellApply c => decide (c < 16)
  | .recordFetch q _ tag => decide (q < 72 ∧ tag < 1024)
  | .moverTake m => decide (m < 24)
  | .nop q => decide (q < 72)
  | .copy m _ => decide (m < 24)
  | .fill m _ => decide (m < 24)
  | .gather m _ => decide (m < 24)
  | .scatter m _ => decide (m < 24)
  | .route m => decide (m < 24)
  | .combine m => decide (m < 24)
  | .pack m _ => decide (m < 24)
  | .unpack m _ => decide (m < 24)
  | .fold m _ => decide (m < 24)
  | .send m _ => decide (m < 24)
  | .lpOutBeat l q => decide (l < 12 ∧ q < 72)
  | .lpOutCredit l => decide (l < 12)
  | .queueArrive q => decide (q < 72)
  | .queueWait q => decide (q < 72)
  | .inval q => decide (q < 72)
  | .fence q => decide (q < 72)
  | .commandEnd q => decide (q < 72)
  | .completionRecord q => decide (q < 72)
  | .stackReadBeat p tag st d _ => p.ok && decide (tag < 1024 ∧ st < 4 ∧ d.bidx < 32 ∧ d.data.length = 64)
  | .stackWriteResponse p tag st => p.ok && decide (tag < 1024 ∧ st < 4)
  | .stackHotRise s rate => decide (s < 20 ∧ rate < 256)
  | .stackHotFall s => decide (s < 20)
  | .stackQuiesce _ _ => true
  | .stackQuiesced s => decide (s < 20)
  | .teardown _ _ => true
  | .teardownDone => true
  | .lpInBeat l w gen off _ _ ds => decide (l < 12 ∧ w < 256 ∧ gen < 65536 ∧ off < 2 ^ 32) && linesOk ds
  | .landingLineAccept _ => true
  | .landingLineRefused _ => true
  | .windowOpen _ w _ => decide (w < 256)
  | .windowClose _ w _ => decide (w < 256)
  | .syArrive c f => decide (c < 16) && f.ok
  | .syWait c f => decide (c < 16) && f.ok
  | .syArriveWait c f => decide (c < 16) && f.ok
  | .syRetract c f => decide (c < 16) && f.ok
  | .sySave c f => decide (c < 16) && f.ok
  | .syRestore c f => decide (c < 16) && f.ok
  | .releaseDeliver _ => true
  | .barrierArm _ n _ => decide (n < 832)
  | .forceSet _ n _ => decide (n < 832)
  | .forceRel _ n _ => decide (n < 832)
  | .barrierBreak _ n _ => decide (n < 832)
  | .srlDumpGo _ _ => true
  | .srlDumpDone => true
  | .srlStateUe => true
  | .claim c f => decide (c < 16) && f.ok
  | .free c f => decide (c < 16) && f.ok
  | .lckClaimRead _ _ n => decide (n < 64)
  | .lckClaimWrite _ _ n _ => decide (n < 64)
  | .mailboxMessage _ k _ => decide (k < 18)
  | .mbxAckWrite _ k _ => decide (k < 18)
  | .mbxDbSet _ _ => true
  | .mbxDbClr _ _ => true
  | .ping k => decide (k < 18)
  | .dump k => decide (k < 18)
  | .migrate k => decide (k < 18)
  | .scrubRegion k => decide (k < 18)
  | .logRead k => decide (k < 18)
  | .unknownCommand k => decide (k < 18)
  | .scrubAccess s up => decide (s < 144) && upsetOk up
  | .scrubBehind => true
  | .laneCrcError s t lane => bundleOk s t && decide (lane < 18)
  | .laneRetrain s t => bundleOk s t
  | .fullRetrain s t _ => bundleOk s t
  | .fullRetrainDone s t ls => bundleOk s t && lanesOk ls
  | .migrationStart _ _ => true
  | .autoMigrate s => decide (s < 128)
  | .migrationCopyLine z up => decide (z < 16) && upsetOk up
  | .migrationSwap z => decide (z < 16)
  | .prtCapPop _ => true
  | .logDrain => true
  | .pwrGrpWrite _ z _ => decide (z < 16)
  | .bankIdleRet s b => bankOk s b
  | .bankWake s b => bankOk s b
  | .bankWakeDone s b => bankOk s b
  | .run _ _ => true
  | .idle _ _ => true
  | .sleep _ _ => true
  | .sleepStepEnd => true
  | .sleepDrainTimeout => true
  | .sleepWakeEvent cls index => decide (cls < 4 ∧ index < 2 ^ 26)
  | .rtcAlarm => true
  | .sleepExitComplete _ => true
  | .pwrIsoRelease _ _ => true
  | .supplyWarn _ _ => true
  | .wakeFreezeEnd _ => true
  | .vaoWarn _ => true
  | .vretLost => true
  | .brownOutReset _ _ => true
  | .vaoLoss => true
  | .lovageInterval _ => true
  | .lovPlan v => decide (v < 1024)
  | .lovShed _ => true
  | .powerOn p => decide (p.devId < 65536)
  | .immediateDeviceReset => true
  | .requestedDeviceReset _ => true
  | .requestedResetForced => true
  | .configLoad x a b => decide (x.devId < 65536) && x.flash.ok && a.ok && b.ok
  | .acienReady => true
  | .domainFence h => h.ok
  | .domainDrained d => decide (d ≤ 20)
  | .domainRelease h => h.ok
  | .cRstAck c _ => decide (c < 16)
  | .fenceTimeout z => decide (z < 16)
  | .brlIsolClear _ _ => true
  | .fatalCondition k => k.ok
  | .brlAbort _ _ => true
  | .abortMarker l org hop => decide (l < 12 ∧ org < 65536 ∧ hop < 16)
  | .intSet _ _ => true
  | .evcSnap _ _ => true
  | .evcClr _ _ => true
  | .evcSelectWrite _ n _ _ => decide (n < 64)
  | .registerWrite _ addr _ => decide (addr < 2 ^ 36)
  | .devHold _ => true
  | .bist rs => bistOk rs
  | .repair s es => decide (s < 144) && es.all FuseEntry.ok
  | .laneTest s t ls => bundleOk s t && lanesOk ls
  | .bondTest t _ => decide (t < 3)
  | .keyProgram _ => true
  | .fuseRead => true
  | .railsRestored _ _ => true
  | .spsRateChange s rate => decide (s < 20 ∧ rate < 256)
  | .portClockChange _ => true
  | .capturingRead _ addr => decide (addr < 2 ^ 36)
  | .tapInstruction t => t.ok
  | .aonPorNLow => true
  | .brlRstReqFall => true

/-- The cores that a command names. -/
def coresOf (i : Instr) : List Nat :=
  match i with
  | .read p _ => p.cores
  | .write p _ => p.cores
  | .zmap p _ => p.cores
  | .writeDataBeat p _ _ => p.cores
  | .responseCredit p => p.cores
  | .elasticResponseBeat p _ => p.cores
  | .fixedLagDelivery p => p.cores
  | .writeResponse p _ => p.cores
  | .chervilRegister c => [c]
  | .stampGap c => [c]
  | .wcAgeFlush c _ => [c]
  | .kEnd c _ => [c]
  | .kEndRecord c => [c]
  | .invalidationIssue c => [c]
  | .vxInvDone c _ => [c]
  | .invTimeout c _ => [c]
  | .queueDoorbell c _ _ _ => [c]
  | .doorbellApply c => [c]
  | .syArrive c _ => [c]
  | .syWait c _ => [c]
  | .syArriveWait c _ => [c]
  | .syRetract c _ => [c]
  | .sySave c _ => [c]
  | .syRestore c _ => [c]
  | .claim c _ => [c]
  | .free c _ => [c]
  | .domainFence h => h.cores
  | .domainRelease h => h.cores
  | .cRstAck c _ => [c]
  | _ => []

end Sys2Proof
end

