-- ==== Sys2Proof/Laws/PerInstr.lean ====
section
/-! SUPPORT. The per-command law: a well-formed command names only cores that exist. -/

namespace Sys2Proof.Laws.Cores

/-- Every core that the command names is one of the 16, if the command is well-formed. -/
def Statement (i : Instr) : Prop := wellFormed i = true → ∀ z ∈ coresOf i, z < 16

theorem no_core (z : Nat) (h : z ∈ ([] : List Nat)) : z < 16 := absurd h List.not_mem_nil

theorem one_core {c : Nat} (h : decide (c < 16) = true) (z : Nat) (m : z ∈ [c]) : z < 16 :=
  (List.mem_singleton.mp m) ▸ of_decide_eq_true h

theorem one_core_and {c : Nat} {b : Bool} (h : (decide (c < 16) && b) = true) (z : Nat) (m : z ∈ [c]) : z < 16 :=
  one_core (Bool.and_eq_true_iff.mp h).1 z m

theorem port_cores {p : Port} (h : p.ok = true) (z : Nat) (m : z ∈ p.cores) : z < 16 :=
  match p, h, m with
  | .ma _, h, m => one_core h z m
  | .mb _, h, m => one_core h z m
  | .mc _, h, m => one_core h z m
  | .vx _, h, m => one_core h z m
  | .cd _, h, m => one_core h z m
  | .hp, _, m => no_core z m

theorem port_cores_and {p : Port} {b : Bool} (h : (p.ok && b) = true) (z : Nat) (m : z ∈ p.cores) : z < 16 :=
  port_cores (Bool.and_eq_true_iff.mp h).1 z m

theorem hold_cores {s : HoldSrc} (h : s.ok = true) (z : Nat) (m : z ∈ s.cores) : z < 16 :=
  match s, h, m with
  | .reg _ _, _, m => no_core z m
  | .zrst _, h, m => one_core h z m

theorem read (p : Port) (f : RqFields) : Statement (.read p f) := port_cores_and
theorem write (p : Port) (f : RqFields) : Statement (.write p f) := port_cores_and
theorem zmap (p : Port) (f : RqFields) : Statement (.zmap p f) := port_cores_and
theorem writeDataBeat (p : Port) (lines : List Line) (poison : List Bool) : Statement (.writeDataBeat p lines poison) := port_cores
theorem responseCredit (p : Port) : Statement (.responseCredit p) := port_cores
theorem elasticResponseBeat (p : Port) (id : Nat) : Statement (.elasticResponseBeat p id) := port_cores
theorem fixedLagDelivery (p : Port) : Statement (.fixedLagDelivery p) := port_cores
theorem writeResponse (p : Port) (id : Nat) : Statement (.writeResponse p id) := port_cores
theorem sliceLineAccess (slice : Nat) (meet : Bool) (up : Upset) : Statement (.sliceLineAccess slice meet up) := fun _ => no_core
theorem guardedParityUpdate (k : Nat) (up : Upset) : Statement (.guardedParityUpdate k up) := fun _ => no_core
theorem tagGroupReload (slice bank group : Nat) (copyBad : Bool) : Statement (.tagGroupReload slice bank group copyBad) := fun _ => no_core
theorem holdCutoff (g : Nat) : Statement (.holdCutoff g) := fun _ => no_core
theorem holdUnitEnd (g : Nat) : Statement (.holdUnitEnd g) := fun _ => no_core
theorem fullRateHold (g : Nat) : Statement (.fullRateHold g) := fun _ => no_core
theorem fullRatePacingChange (mvA mvB : Nat) : Statement (.fullRatePacingChange mvA mvB) := fun _ => no_core
theorem thyHoldLong (g : Nat) : Statement (.thyHoldLong g) := fun _ => no_core
theorem thyClr (by_ : Agent) (v : Word) : Statement (.thyClr by_ v) := fun _ => no_core
theorem chervilRegister (c : Nat) : Statement (.chervilRegister c) := one_core
theorem stampGap (c : Nat) : Statement (.stampGap c) := one_core
theorem writeRangeRetire (id : Nat) : Statement (.writeRangeRetire id) := fun _ => no_core
theorem wcAgeFlush (c : Nat) (ta : Nat) : Statement (.wcAgeFlush c ta) := one_core_and
theorem kEnd (c : Nat) (seq : Nat) : Statement (.kEnd c seq) := one_core_and
theorem kEndRecord (c : Nat) : Statement (.kEndRecord c) := one_core
theorem invalidationIssue (c : Nat) : Statement (.invalidationIssue c) := one_core
theorem vxInvDone (c : Nat) (id : Nat) : Statement (.vxInvDone c id) := one_core_and
theorem invTimeout (c : Nat) (id : Nat) : Statement (.invTimeout c id) := one_core_and
theorem fenReseedZone (by_ : Agent) (zones : Word) : Statement (.fenReseedZone by_ zones) := fun _ => no_core
theorem fenReseedQueues (by_ : Agent) : Statement (.fenReseedQueues by_) := fun _ => no_core
theorem fenReseedHp (by_ : Agent) : Statement (.fenReseedHp by_) := fun _ => no_core
theorem rgnEntWrite (by_ : Agent) (n : Nat) (v : Word) : Statement (.rgnEntWrite by_ n v) := fun _ => no_core
theorem regionClearComplete : Statement (.regionClearComplete) := fun _ => no_core
theorem brlCtrlRemap (by_ : Agent) (v : Word) : Statement (.brlCtrlRemap by_ v) := fun _ => no_core
theorem movQtailWrite (by_ : Agent) (q : Nat) (v : Word) : Statement (.movQtailWrite by_ q v) := fun _ => no_core
theorem queueDoorbell (c j tail seq : Nat) : Statement (.queueDoorbell c j tail seq) := one_core_and
theorem doorbellApply (c : Nat) : Statement (.doorbellApply c) := one_core
theorem recordFetch (q : Nat) (rdy : Bool) (tag : Nat) : Statement (.recordFetch q rdy tag) := fun _ => no_core
theorem moverTake (m : Nat) : Statement (.moverTake m) := fun _ => no_core
theorem nop (q : Nat) : Statement (.nop q) := fun _ => no_core
theorem copy (m i : Nat) : Statement (.copy m i) := fun _ => no_core
theorem fill (m i : Nat) : Statement (.fill m i) := fun _ => no_core
theorem gather (m i : Nat) : Statement (.gather m i) := fun _ => no_core
theorem scatter (m i : Nat) : Statement (.scatter m i) := fun _ => no_core
theorem route (m : Nat) : Statement (.route m) := fun _ => no_core
theorem combine (m : Nat) : Statement (.combine m) := fun _ => no_core
theorem pack (m i : Nat) : Statement (.pack m i) := fun _ => no_core
theorem unpack (m i : Nat) : Statement (.unpack m i) := fun _ => no_core
theorem fold (m i : Nat) : Statement (.fold m i) := fun _ => no_core
theorem send (m i : Nat) : Statement (.send m i) := fun _ => no_core
theorem lpOutBeat (l q : Nat) : Statement (.lpOutBeat l q) := fun _ => no_core
theorem lpOutCredit (l : Nat) : Statement (.lpOutCredit l) := fun _ => no_core
theorem queueArrive (q : Nat) : Statement (.queueArrive q) := fun _ => no_core
theorem queueWait (q : Nat) : Statement (.queueWait q) := fun _ => no_core
theorem inval (q : Nat) : Statement (.inval q) := fun _ => no_core
theorem fence (q : Nat) : Statement (.fence q) := fun _ => no_core
theorem commandEnd (q : Nat) : Statement (.commandEnd q) := fun _ => no_core
theorem completionRecord (q : Nat) : Statement (.completionRecord q) := fun _ => no_core
theorem stackReadBeat (p : SaPort) (tag status : Nat) (beat : RsBeat) (poison : Bool) : Statement (.stackReadBeat p tag status beat poison) := fun _ => no_core
theorem stackWriteResponse (p : SaPort) (tag status : Nat) : Statement (.stackWriteResponse p tag status) := fun _ => no_core
theorem stackHotRise (s rate : Nat) : Statement (.stackHotRise s rate) := fun _ => no_core
theorem stackHotFall (s : Nat) : Statement (.stackHotFall s) := fun _ => no_core
theorem stackQuiesce (by_ : Agent) (v : Word) : Statement (.stackQuiesce by_ v) := fun _ => no_core
theorem stackQuiesced (s : Nat) : Statement (.stackQuiesced s) := fun _ => no_core
theorem teardown (by_ : Agent) (v : Word) : Statement (.teardown by_ v) := fun _ => no_core
theorem teardownDone : Statement (.teardownDone) := fun _ => no_core
theorem lpInBeat (l win gen off : Nat) (lv poison : List Bool) (data : List Line) : Statement (.lpInBeat l win gen off lv poison data) := fun _ => no_core
theorem landingLineAccept (k : Nat) : Statement (.landingLineAccept k) := fun _ => no_core
theorem landingLineRefused (k : Nat) : Statement (.landingLineRefused k) := fun _ => no_core
theorem windowOpen (by_ : Agent) (w : Nat) (v : Word) : Statement (.windowOpen by_ w v) := fun _ => no_core
theorem windowClose (by_ : Agent) (w : Nat) (v : Word) : Statement (.windowClose by_ w v) := fun _ => no_core
theorem syArrive (c : Nat) (f : SyFields) : Statement (.syArrive c f) := one_core_and
theorem syWait (c : Nat) (f : SyFields) : Statement (.syWait c f) := one_core_and
theorem syArriveWait (c : Nat) (f : SyFields) : Statement (.syArriveWait c f) := one_core_and
theorem syRetract (c : Nat) (f : SyFields) : Statement (.syRetract c f) := one_core_and
theorem sySave (c : Nat) (f : SyFields) : Statement (.sySave c f) := one_core_and
theorem syRestore (c : Nat) (f : SyFields) : Statement (.syRestore c f) := one_core_and
theorem releaseDeliver (k : Nat) : Statement (.releaseDeliver k) := fun _ => no_core
theorem barrierArm (by_ : Agent) (n : Nat) (v : Word) : Statement (.barrierArm by_ n v) := fun _ => no_core
theorem forceSet (by_ : Agent) (n : Nat) (v : Word) : Statement (.forceSet by_ n v) := fun _ => no_core
theorem forceRel (by_ : Agent) (n : Nat) (v : Word) : Statement (.forceRel by_ n v) := fun _ => no_core
theorem barrierBreak (by_ : Agent) (n : Nat) (v : Word) : Statement (.barrierBreak by_ n v) := fun _ => no_core
theorem srlDumpGo (by_ : Agent) (v : Word) : Statement (.srlDumpGo by_ v) := fun _ => no_core
theorem srlDumpDone : Statement (.srlDumpDone) := fun _ => no_core
theorem srlStateUe : Statement (.srlStateUe) := fun _ => no_core
theorem claim (c : Nat) (f : SyFields) : Statement (.claim c f) := one_core_and
theorem free (c : Nat) (f : SyFields) : Statement (.free c f) := one_core_and
theorem lckClaimRead (by_ : Agent) (bmcView : Bool) (i : Nat) : Statement (.lckClaimRead by_ bmcView i) := fun _ => no_core
theorem lckClaimWrite (by_ : Agent) (bmcView : Bool) (i : Nat) (v : Word) : Statement (.lckClaimWrite by_ bmcView i v) := fun _ => no_core
theorem mailboxMessage (viaCore : Bool) (k : Nat) (v : Word) : Statement (.mailboxMessage viaCore k v) := fun _ => no_core
theorem mbxAckWrite (by_ : Agent) (k : Nat) (v : Word) : Statement (.mbxAckWrite by_ k v) := fun _ => no_core
theorem mbxDbSet (by_ : Agent) (v : Word) : Statement (.mbxDbSet by_ v) := fun _ => no_core
theorem mbxDbClr (by_ : Agent) (v : Word) : Statement (.mbxDbClr by_ v) := fun _ => no_core
theorem ping (k : Nat) : Statement (.ping k) := fun _ => no_core
theorem dump (k : Nat) : Statement (.dump k) := fun _ => no_core
theorem migrate (k : Nat) : Statement (.migrate k) := fun _ => no_core
theorem scrubRegion (k : Nat) : Statement (.scrubRegion k) := fun _ => no_core
theorem logRead (k : Nat) : Statement (.logRead k) := fun _ => no_core
theorem unknownCommand (k : Nat) : Statement (.unknownCommand k) := fun _ => no_core
theorem scrubAccess (slice : Nat) (up : Upset) : Statement (.scrubAccess slice up) := fun _ => no_core
theorem scrubBehind : Statement (.scrubBehind) := fun _ => no_core
theorem laneCrcError (slice tier lane : Nat) : Statement (.laneCrcError slice tier lane) := fun _ => no_core
theorem laneRetrain (slice tier : Nat) : Statement (.laneRetrain slice tier) := fun _ => no_core
theorem fullRetrain (slice tier : Nat) (handshake : Bool) : Statement (.fullRetrain slice tier handshake) := fun _ => no_core
theorem fullRetrainDone (slice tier : Nat) (untrained : List Nat) : Statement (.fullRetrainDone slice tier untrained) := fun _ => no_core
theorem migrationStart (by_ : Agent) (v : Word) : Statement (.migrationStart by_ v) := fun _ => no_core
theorem autoMigrate (s : Nat) : Statement (.autoMigrate s) := fun _ => no_core
theorem migrationCopyLine (z : Nat) (up : Upset) : Statement (.migrationCopyLine z up) := fun _ => no_core
theorem migrationSwap (z : Nat) : Statement (.migrationSwap z) := fun _ => no_core
theorem prtCapPop (by_ : Agent) : Statement (.prtCapPop by_) := fun _ => no_core
theorem logDrain : Statement (.logDrain) := fun _ => no_core
theorem pwrGrpWrite (by_ : Agent) (z : Nat) (v : Word) : Statement (.pwrGrpWrite by_ z v) := fun _ => no_core
theorem bankIdleRet (slice bank : Nat) : Statement (.bankIdleRet slice bank) := fun _ => no_core
theorem bankWake (slice bank : Nat) : Statement (.bankWake slice bank) := fun _ => no_core
theorem bankWakeDone (slice bank : Nat) : Statement (.bankWakeDone slice bank) := fun _ => no_core
theorem run (by_ : Agent) (v : Word) : Statement (.run by_ v) := fun _ => no_core
theorem idle (by_ : Agent) (v : Word) : Statement (.idle by_ v) := fun _ => no_core
theorem sleep (by_ : Agent) (v : Word) : Statement (.sleep by_ v) := fun _ => no_core
theorem sleepStepEnd : Statement (.sleepStepEnd) := fun _ => no_core
theorem sleepDrainTimeout : Statement (.sleepDrainTimeout) := fun _ => no_core
theorem sleepWakeEvent (cls index : Nat) : Statement (.sleepWakeEvent cls index) := fun _ => no_core
theorem rtcAlarm : Statement (.rtcAlarm) := fun _ => no_core
theorem sleepExitComplete (crc : BitVec 32) : Statement (.sleepExitComplete crc) := fun _ => no_core
theorem pwrIsoRelease (by_ : Agent) (v : Word) : Statement (.pwrIsoRelease by_ v) := fun _ => no_core
theorem supplyWarn (r : Rail) (mv : Nat) : Statement (.supplyWarn r mv) := fun _ => no_core
theorem wakeFreezeEnd (r : Rail) : Statement (.wakeFreezeEnd r) := fun _ => no_core
theorem vaoWarn (mv : Nat) : Statement (.vaoWarn mv) := fun _ => no_core
theorem vretLost : Statement (.vretLost) := fun _ => no_core
theorem brownOutReset (r : Rail) (mv : Nat) : Statement (.brownOutReset r mv) := fun _ => no_core
theorem vaoLoss : Statement (.vaoLoss) := fun _ => no_core
theorem lovageInterval (d : Demand) : Statement (.lovageInterval d) := fun _ => no_core
theorem lovPlan (v : Nat) : Statement (.lovPlan v) := fun _ => no_core
theorem lovShed (level : Bool) : Statement (.lovShed level) := fun _ => no_core
theorem powerOn (p : PowerUp) : Statement (.powerOn p) := fun _ => no_core
theorem immediateDeviceReset : Statement (.immediateDeviceReset) := fun _ => no_core
theorem requestedDeviceReset (byPin : Bool) : Statement (.requestedDeviceReset byPin) := fun _ => no_core
theorem requestedResetForced : Statement (.requestedResetForced) := fun _ => no_core
theorem configLoad (x : BootInputs) (a b : Slot) : Statement (.configLoad x a b) := fun _ => no_core
theorem acienReady : Statement (.acienReady) := fun _ => no_core
theorem domainFence (src : HoldSrc) : Statement (.domainFence src) := hold_cores
theorem domainDrained (d : Nat) : Statement (.domainDrained d) := fun _ => no_core
theorem domainRelease (src : HoldSrc) : Statement (.domainRelease src) := hold_cores
theorem cRstAck (c : Nat) (level : Bool) : Statement (.cRstAck c level) := one_core
theorem fenceTimeout (z : Nat) : Statement (.fenceTimeout z) := fun _ => no_core
theorem brlIsolClear (by_ : Agent) (v : Word) : Statement (.brlIsolClear by_ v) := fun _ => no_core
theorem fatalCondition (k : FatalKind) : Statement (.fatalCondition k) := fun _ => no_core
theorem brlAbort (by_ : Agent) (v : Word) : Statement (.brlAbort by_ v) := fun _ => no_core
theorem abortMarker (l org hop : Nat) : Statement (.abortMarker l org hop) := fun _ => no_core
theorem intSet (by_ : Agent) (v : Word) : Statement (.intSet by_ v) := fun _ => no_core
theorem evcSnap (by_ : Agent) (v : Word) : Statement (.evcSnap by_ v) := fun _ => no_core
theorem evcClr (by_ : Agent) (v : Word) : Statement (.evcClr by_ v) := fun _ => no_core
theorem evcSelectWrite (by_ : Agent) (i : Nat) (flt : Bool) (v : Word) : Statement (.evcSelectWrite by_ i flt v) := fun _ => no_core
theorem registerWrite (by_ : Agent) (addr : Nat) (v : Word) : Statement (.registerWrite by_ addr v) := fun _ => no_core
theorem devHold (level : Bool) : Statement (.devHold level) := fun _ => no_core
theorem bist (results : List BistResult) : Statement (.bist results) := fun _ => no_core
theorem repair (slice : Nat) (entries : List FuseEntry) : Statement (.repair slice entries) := fun _ => no_core
theorem laneTest (slice tier : Nat) (failing : List Nat) : Statement (.laneTest slice tier failing) := fun _ => no_core
theorem bondTest (tier : Nat) (broken : List Nat) : Statement (.bondTest tier broken) := fun _ => no_core
theorem keyProgram (op : KeyOp) : Statement (.keyProgram op) := fun _ => no_core
theorem fuseRead : Statement (.fuseRead) := fun _ => no_core
theorem railsRestored (mvA mvB : Nat) : Statement (.railsRestored mvA mvB) := fun _ => no_core
theorem spsRateChange (s rate : Nat) : Statement (.spsRateChange s rate) := fun _ => no_core
theorem portClockChange (k : ClockChange) : Statement (.portClockChange k) := fun _ => no_core
theorem capturingRead (by_ : Agent) (addr : Nat) : Statement (.capturingRead by_ addr) := fun _ => no_core
theorem tapInstruction (op : TapOp) : Statement (.tapInstruction op) := fun _ => no_core
theorem aonPorNLow : Statement (.aonPorNLow) := fun _ => no_core
theorem brlRstReqFall : Statement (.brlRstReqFall) := fun _ => no_core

end Sys2Proof.Laws.Cores
end

