-- ==== Sys2Proof/Tests/Slice0.lean ====
section
/-! SUPPORT. Tests: the words and examples that the spec writes out, ill-formed commands, and for every statement of Obligations.lean states and
operands that meet its hypotheses, clause by clause. -/

set_option Elab.async false

namespace Sys2Proof.Tests

open Sys2Proof.Machine

/-! Small states. -/

/-- A schedule group that has left its hold. -/
def idleGrp : Grp := { Grp.rest with tick := 100, active := false }

/-- A running device: groups released, cores out of reset, the configuration loaded. -/
def upCtl : Ctl := { Ctl.reset with
  pc := 100000, rtc := 10000000, grp := [(0, idleGrp), (1, idleGrp), (2, idleGrp), (3, idleGrp)]
  out := { Ctl.reset.out with ready := true, rstReq := [] }, dev := { Ctl.reset.dev with run := .running }
  regs := [(brlLock, 1#32), (brlLoadSt, 0x8000FFFF#32)] }

def of (c : Ctl) : State := ⟨Store.empty, c, []⟩
def up : State := of upCtl

/-- Word writes over a state's registers. -/
def regsOf (l : List (Nat × Word)) (c : Ctl) : Ctl := l.foldl (fun c p => setReg p.1 p.2 c) c

/-- The command at a state is answered with a next state that passes a test. -/
def goes (i : Instr) (s : State) (f : State → Bool) : Bool := match exec i s with | .next t => f t | _ => false

/-- The state after a command. -/
def after (i : Instr) (s : State) : State := match exec i s with | .next t => t | _ => s

/-- Request fields: `len` lines minus 1 at `addr` with stamp `seq`. -/
def rq (addr len seq : Nat) : RqFields := ⟨false, addr, len, 0, 5, 0, false, false, false, [], seq⟩

/-- A line that counts its bytes. -/
def ramp : Line := (List.range 64).map (fun i => BitVec.ofNat 8 (i + 1))

/-- A device with a read of port vx 0 accepted, and one with a write. -/
def reading : State := after (.read (.vx 0) (rq taSpread 0 0)) up
def writing : State := after (.write (.vx 0) (rq taSpread 0 0)) up

/-- One access on its way to the line at `ta`. -/
def opAt (owner : Owner) (ta : Nat) (acc : Acc) : LineOp := ⟨owner, ta, acc, false, 0, 0, 0, none, false, false, true, 0⟩

/-- Core 0 presents its stamp 0. -/
def sy (obj : Nat) : SyFields := ⟨obj, false, 0, 3, 0⟩

/-- Barrier `n` armed for `p` participants, `cur` counted, in phase `ph`. -/
def armed (n p cur ph : Nat) (c : Ctl) : Ctl := setBar n ⟨p, ph, cur, 0, false, .none, 0x3FF, false, false⟩ c

/-- A running command of queue `q` on mover 0. -/
def runOf (ws : List Nat) : Run := newRun ws 0 (some 0) none 0
def withRun (q : Nat) (r : Run) (c : Ctl) : Ctl := setQueue q { queueOf c q with run := some r } c

/-! Ports. -/

theorem witness_RequestsJoinTheirRing :
    rqReady up.ctl (.ma 0) = true ∧ lovAdmits up.ctl (.ma 0) .read (rq taSpread 0 0) = true ∧ rqReady reading.ctl (.vx 0) = true ∧ rqReady up.ctl (.vx 15) = true ∧ rqReady up.ctl .hp = true
    ∧ reading.ctl.port.reqs.length = 1 ∧ (∀ r ∈ reading.ctl.port.reqs, r.id < reading.ctl.port.serial)
    ∧ rqReady State.reset.ctl (.ma 0) = false ∧ rqReady State.reset.ctl .hp = false ∧ State.reset.ctl.pwr.entry = none := by
  decide +kernel

/-- A port whose share of the interval is spent takes no request, and Lovage notes whom it turned away. -/
theorem witness_RequestsJoinTheirRing_held :
    (let c := { upCtl with lov := { upCtl.lov with room := [(4, 0)] } }
     (rqReady c .hp && lovAdmits c .hp .read (rq taSpread 0 0)) = false ∧ c.pwr.entry = none ∧ rqOpen c .hp = true) := by
  decide +kernel

theorem witness_StepKeepsRequestNumbers :
    (∀ r ∈ reading.ctl.port.reqs, r.id < reading.ctl.port.serial) ∧ ∃ t, step reading = .next t := by
  refine ⟨by decide +kernel, ?_⟩
  have h : reading.pending = [] := by decide +kernel
  exact ⟨_, by unfold step; rw [h]⟩

theorem witness_DeliveryFallsAtItsLag :
    rqReady up.ctl (.ma 0) = true ∧ fixedLag up.ctl (.ma 0) = true ∧ groupOf up.ctl (.ma 0) = some 0 ∧ reserved up.ctl (.ma 0) = []
    ∧ rqReady up.ctl (.mc 15) = true ∧ fixedLag up.ctl (.mc 15) = true ∧ groupOf up.ctl (.mc 15) = some 0
    ∧ reserved up.ctl (.mc 15) = [] := by
  decide +kernel

theorem witness_WriteBeatReachesItsWrite :
    (awaiting writing.ctl (.vx 0)).isSome = true ∧ wdReady writing.ctl (.vx 0) = true := by
  decide +kernel

/-- A near line and a spread line with an access each. -/
def storing : State := of { upCtl with port := { upCtl.port with ops := [opAt (.req 7 0) taSpread (.write ramp fullMask false)] } }

theorem witness_SliceStoresALine :
    storing.onCtl toSlices = storing ∧ storing.ctl.port.ops.filter (fun o => decide (opSlice storing.ctl o = some 0)) = [opAt (.req 7 0) taSpread (.write ramp fullMask false)]
    ∧ ramp.length = 64 ∧ place storing.ctl taSpread = some ⟨0, 0, 0⟩ ∧ banksOn storing.ctl ⟨0, 0, 0⟩
    ∧ opAvail storing (opAt (.req 7 0) taSpread (.write ramp fullMask false)) = .ready
    ∧ yields storing 0 (opAt (.req 7 0) taSpread (.write ramp fullMask false)) = false ∧ isGuarded storing.ctl taSpread = false
    ∧ redirectBad storing.ctl ⟨0, 0, 0⟩ = false ∧ storing.ctl.pwr.moves = [] ∧ storing.store.blur = none := by
  unfold banksOn
  decide +kernel

/-- A released read of a line that holds `ramp`. -/
def fetching : State :=
  let s := after (.read (.vx 0) { rq taSpread 0 0 with qos := 3 }) up
  { s with
    store := Store.put 0 ramp Store.empty
    ctl := { s.ctl with port := { s.ctl.port with
      reqs := s.ctl.port.reqs.map (fun r => { r with released := true, nOps := 1 }), ops := [opAt (.req 0 0) taSpread .read] } } }

theorem witness_SliceReturnsTheLine :
    fetching.onCtl toSlices = fetching ∧ fetching.ctl.port.ops.filter (fun o => decide (opSlice fetching.ctl o = some 0)) = [opAt (.req 0 0) taSpread .read]
    ∧ (findReq fetching.ctl 0).map Req.released = some true ∧ place fetching.ctl taSpread = some ⟨0, 0, 0⟩ ∧ banksOn fetching.ctl ⟨0, 0, 0⟩
    ∧ opAvail fetching (opAt (.req 0 0) taSpread .read) = .ready ∧ yields fetching 0 (opAt (.req 0 0) taSpread .read) = false
    ∧ heldLine fetching.ctl [taSpread] = false ∧ redirectBad fetching.ctl ⟨0, 0, 0⟩ = false ∧ fetching.ctl.pwr.moves = []
    ∧ tabFind fetching.store.upsets (keyOf fetching.ctl ⟨0, 0, 0⟩) = none ∧ fetching.store.isPoison (keyOf fetching.ctl ⟨0, 0, 0⟩) = false
    ∧ fetching.store.isZero (keyOf fetching.ctl ⟨0, 0, 0⟩) = false := by
  unfold banksOn
  decide +kernel

theorem witness_LostTagGroupIsPoisoned :
    47 < bankCount up.ctl ∧ up.store.blur = none ∧ baseLogicOn up.ctl = true ∧ reloadAvail up 142 47 255 true = .ready
    ∧ reloadAvail (of (setBank 142 47 { Bank.rest with st := .ret } upCtl)) 142 47 255 true = .wait (some .retWake)
    ∧ reloadAvail (of (setLane 142 2 { Lane.rest with retrain := true } upCtl)) 142 47 255 false = .wait (some .retrain) := by
  decide +kernel

theorem witness_CutoffDecidesTheHold :
    thymeRuns up.ctl = true ∧ (grpOf up.ctl 3).tested = false ∧ cutoffTick (grpOf up.ctl 3) = some 102
    ∧ (holdReason (fullRateHold 3 up.ctl) 3 102).isSome = false ∧ (holdReason { upCtl with lov := { upCtl.lov with held := [3], share := [(3, 0)] } } 3 102) = some .lovage
    ∧ upCtl.pwr.entry = none ∧ { upCtl.pwr with entry := some ⟨1, 0, none, []⟩ }.entry ≠ none := by
  decide +kernel

/-! Chervil. -/

theorem witness_StampsAreRegisteredInOrder :
    (items reading.ctl 0).find? (fun p => decide (128 ≤ stampAhead (chvOf reading.ctl 0).e p.1)) = none
    ∧ ((items reading.ctl 0).find? (fun p => decide (p.1 = (chvOf reading.ctl 0).e))).isSome = true
    ∧ ((items (after (.read (.vx 15) (rq taSpread 0 128)) up).ctl 15).find? (fun p => decide (128 ≤ stampAhead 0 p.1))).isSome = true
    ∧ (chvOf (after (.read (.vx 15) (rq taSpread 0 128)) up).ctl 15).e = 0 := by
  decide +kernel

/-- A read with stamp 2 that has waited while stamp 0 is expected. -/
def gapped : Ctl := { (after (.read (.vx 15) (rq taSpread 0 2)) up).ctl with pc := 200000 }

theorem witness_StampGapIsSkipped :
    baseLogicOn gapped = true ∧ zoneFenced gapped 15 = false ∧ waitingStamps gapped 15 = [2] ∧ itemPcs gapped 15 = [100000] ∧ 100000 + 256 * bits (reg gapped chvCfg) 0 8 ≤ gapped.pc := by
  decide +kernel

/-- Core 0 holds one old write-combining entry and two kernel ends. -/
def combining : Ctl := setChv 0 { Chv.rest with wc := [⟨taSpread, ramp, 1, 0, []⟩], ends := [⟨1, none, 1, 5, none⟩, ⟨2, none, 1, 6, none⟩] } upCtl

theorem witness_WriteCombiningIsFlushed :
    ⟨taSpread, ramp, 1, 0, []⟩ ∈ (chvOf combining 0).wc ∧ 0 + 8 * bits (reg combining chvCfg) 16 8 ≤ combining.pc
    ∧ coreOpen combining 0 = true ∧ (chvOf combining 0).ends.length = 2 ∧ coreOpen combining 15 = true := by
  decide +kernel

/-- Core 3 has an invalidation waiting and another outstanding. -/
def invalidating : Ctl :=
  setChv 3 { Chv.rest with invQ := [⟨2, false, taSpread, 1, .release⟩], invOut := [⟨0, ⟨1, true, 0, 1, .release⟩, 0⟩] } upCtl

theorem witness_InvalidationsAreTracked :
    (chvOf invalidating 3).invQ = [⟨2, false, taSpread, 1, .release⟩] ∧ freeInvId (chvOf invalidating 3) = some 1
    ∧ invDriven invalidating 3 = false ∧ edgeHeld invalidating (.inv 3 1 false taSpread 1) = false ∧ invalidating.out.vague = false
    ∧ (chvOf invalidating 3).invOut.find? (fun o => decide (o.id = 0)) = some ⟨0, ⟨1, true, 0, 1, .release⟩, 0⟩
    ∧ 0 + 32 * bits (reg invalidating chvCfg) 28 4 ≤ invalidating.rtc ∧ baseLogicOn invalidating = true := by
  decide +kernel

/-! Sorrel. -/

theorem witness_SorrelAnswersEveryOperation :
    atItsTurn up.ctl 0 (sy 831) ∧ atItsTurn up.ctl 15 (sy 831) ∧ drives up.ctl (.sr 0 0 (syApply 0 .claim (sy 63) up.ctl).1
      (syApply 0 .claim (sy 63) up.ctl).2.1) := by
  unfold atItsTurn drives
  decide +kernel

theorem witness_ArrivalsCountPhases :
    atItsTurn (armed 831 3 1 0 upCtl) 0 (sy 831) ∧ (barOf (armed 831 3 1 0 upCtl) 831).frozen = false
    ∧ (barOf (armed 831 3 1 0 upCtl) 831).cur + 1 ≠ (barOf (armed 831 3 1 0 upCtl) 831).p
    ∧ (barOf (armed 831 3 2 0 upCtl) 831).cur + 1 = (barOf (armed 831 3 2 0 upCtl) 831).p
    ∧ (barOf (armed 831 3 2 0 upCtl) 831).nxt ≠ (barOf (armed 831 3 2 0 upCtl) 831).p ∧ (barOf (armed 831 3 1 0 upCtl) 831).cur ≠ 0 := by
  unfold atItsTurn
  decide +kernel

theorem witness_WaitersTakeAnEntry :
    atItsTurn (armed 831 3 1 0 upCtl) 0 (sy 831) ∧ (barOf (armed 831 3 1 0 upCtl) 831).frozen = false
    ∧ ctxHeld (armed 831 3 1 0 upCtl) 0 3 = false ∧ freeWt (armed 831 3 1 0 upCtl) 0 = some 0
    ∧ (sy 831).ph.testBit 0 = decide ((barOf (armed 831 3 1 0 upCtl) 831).ph % 2 = 1)
    ∧ (sy 831).ph.testBit 0 ≠ decide ((barOf (armed 831 3 1 1 upCtl) 831).ph % 2 = 1)
    ∧ (barOf (armed 831 3 1 0 upCtl) 831).cur + 1 < (barOf (armed 831 3 1 0 upCtl) 831).p := by
  unfold atItsTurn
  decide +kernel

/-- Core 0 has a waiter in its wait table, or in its save area. -/
def waiter (saved : Bool) : Ctl := { upCtl with srl := { upCtl.srl with wt := [(if saved then 8 else 0, ⟨3, false, 5, none⟩)] } }

/-- Core 0's save area holds a waiter released there, whose barrier asks for an invalidation. -/
def releasedWaiter : Ctl :=
  setBar 5 { Barrier.rest with rinv := true } { upCtl with srl := { upCtl.srl with wt := [(8, ⟨3, false, 5, some false⟩)] } }

def bothWaiters : Ctl := { upCtl with srl := { upCtl.srl with wt := [(0, ⟨3, false, 5, none⟩), (8, ⟨4, false, 5, none⟩)] } }

theorem witness_SaveAndRestoreMoveWaiters :
    atItsTurn (waiter false) 0 (sy 0) ∧ wtOf (waiter false) 0 true = [] ∧ (wtOf (waiter false) 0 false).length = 1
    ∧ atItsTurn (waiter true) 0 (sy 0) ∧ wtOf (waiter true) 0 false = [] ∧ (wtOf (waiter true) 0 true).length = 1
    ∧ atItsTurn releasedWaiter 0 (sy 0) ∧ wtOf releasedWaiter 0 true = [(8, ⟨3, false, 5, some false⟩)]
    ∧ wtOf releasedWaiter 0 false = [] ∧ (barOf releasedWaiter 5).rinv = true
    ∧ atItsTurn bothWaiters 0 (sy 0) ∧ (wtOf bothWaiters 0 true).length = 1 ∧ (wtOf bothWaiters 0 false).length = 1 := by
  unfold atItsTurn
  decide +kernel

theorem witness_LocksAreClaimedAndFreed :
    atItsTurn up.ctl 0 (sy 63) ∧ tabGet 0 up.ctl.srl.lock 63 = 0 ∧ up.ctl.srl.dead = false
    ∧ takesWrite up .mp (rg 4 (0x100 + 4 * 63)) ∧ takesWrite up .acien (rg 4 (4 * 0)) := by
  unfold atItsTurn takesWrite
  decide +kernel

/-- Deliveries of each kind, the second one behind an outstanding invalidation of another number. -/
def releasing : Ctl :=
  withRun 70 (runOf [0x11]) { invalidating with
    srl := { upCtl.srl with rel := [⟨.wake 15 3 false, none⟩, ⟨.queue 70 true, some 9⟩, ⟨.answer 2 7 .ok 0, none⟩] } }

theorem witness_ReleasesAreDelivered :
    baseLogicOn releasing = true ∧ releasing.srl.rel[0]? = some ⟨.wake 15 3 false, none⟩ ∧ edgeHeld releasing (.wk 15 3 .ok) = false
    ∧ releasing.srl.rel[1]? = some ⟨.queue 70 true, some 9⟩ ∧ tokDone releasing 9 = true ∧ tokDone releasing 1 = false
    ∧ (queueOf releasing 70).run = some (runOf [0x11]) ∧ releasing.srl.rel[2]? = some ⟨.answer 2 7 .ok 0, none⟩
    ∧ srDriven releasing 2 = false ∧ edgeHeld releasing (.sr 2 7 .ok 0) = false ∧ releasing.out.vague = false
    ∧ (releasing.srl.rel.take 2).any (fun x => match x.kind with | .answer y _ _ _ => decide (y = 2) | _ => false) = false := by
  decide +kernel

/-! Memory and regions. -/

/-- Region 1 is guarded, and the difference of a write to its first line waits for the parity slice. -/
def guardedTa : Nat := taSpread + 0x200000
def parityOp : LineOp := opAt (.req 7 0) guardedTa (.write ramp fullMask false)
def parityJob : ParityJob := ⟨parityOp, parityTa guardedTa, ramp, ramp, false, resSt .ok, resData zeroLine true⟩
def paritying : State := of { regsOf [(rgnEnt 1, 0x100#32)] upCtl with
  port := { upCtl.port with parity := [parityJob] } }
def parityLoc : Option Loc := place paritying.ctl (parityTa guardedTa)

/-- The same with a released read of the line, numbered 9, that waits for the write. -/
def parityRead : State := paritying.onCtl (fun c =>
  let r := (after (.read (.vx 0) (rq guardedTa 0 0)) up).ctl.port.reqs.map (fun r => { r with id := 9, released := true, nOps := 1 })
  { c with port := { c.port with reqs := r, ops := [opAt (.req 9 0) guardedTa .read] } })

theorem witness_GuardedWriteAppliesItsDifference :
    paritying.ctl.port.parity[0]? = some parityJob ∧ parityJob.new.length = 64 ∧ parityJob.diff.length = 64
    ∧ (place paritying.ctl guardedTa).isSome = true ∧ parityLoc.isSome = true ∧ paritying.ctl.pwr.moves = [] ∧ heldReads paritying parityJob = []
    ∧ (∀ l ∈ place paritying.ctl guardedTa, jobAvail paritying l parityJob [] = .ready ∧ banksOn paritying.ctl l)
    ∧ (∀ l ∈ parityLoc, intact paritying l ∧ banksOn paritying.ctl l ∧ redirectBad paritying.ctl l = false)
    ∧ (∀ l ∈ place paritying.ctl guardedTa, redirectBad paritying.ctl l = false)
    ∧ (place paritying.ctl guardedTa).map (keyOf paritying.ctl) ≠ parityLoc.map (keyOf paritying.ctl) := by
  unfold intact banksOn
  decide +kernel

theorem witness_GuardedWriteAppliesItsDifference_read :
    heldReads parityRead parityJob = [opAt (.req 9 0) guardedTa .read] ∧ (findReq parityRead.ctl 9).map Req.released = some true
    ∧ (∀ l ∈ place parityRead.ctl guardedTa, jobAvail parityRead l parityJob [] = .ready) ∧ parityRead.ctl.port.parity[0]? = some parityJob := by
  decide +kernel

/-- A change of region 8031, the last populated one, that waits for nothing. -/
def changing : Ctl := { upCtl with region := some ⟨8031, 0x10000#32, 0⟩, dev := { upCtl.dev with hub := .region .mp } }

theorem witness_RegionChangeClearsTheRegion :
    hubTakes up.ctl .mp (rgnEnt 0) = true ∧ regionPool up.ctl 0 ≠ 2
    ∧ (entAfter up.ctl 0 0x10000#32).1 ≠ reg up.ctl (rgnEnt 0) ∧ (entAfter up.ctl 0 0#32).1 = reg up.ctl (rgnEnt 0)
    ∧ changing.region = some ⟨8031, 0x10000#32, 0⟩ ∧ regionPending changing ⟨8031, 0x10000#32, 0⟩ = false
    ∧ regionAwake changing 8031 = true
    ∧ ((place changing (taNear + 15 * 0x40000000 + 95 * 0x200000)).bind (fun l => keyTa changing (keyOf changing l))).bind regionOf = some 8031 := by
  decide +kernel

/-! Queues and movers. -/

/-- Core 15 has a registered doorbell for queue 60 with tail 3. -/
def ringing : Ctl := setChv 15 { Chv.rest with dbs := [⟨60, 3, 0, some 0, 5⟩] } upCtl

theorem witness_TailsAreMoved :
    takesWrite up .mp (movQtail 0) ∧ takesWrite up .acien (movQtail 71)
    ∧ ringDist (queueOf up.ctl 0).head (bits 16#32 0 16) ≤ qSize up.ctl 0 ∧ qSize up.ctl 71 < ringDist (queueOf up.ctl 71).head (bits 17#32 0 16)
    ∧ coreOpen up.ctl 15 = true ∧ (chvOf up.ctl 15).dbs.length < 2
    ∧ (chvOf ringing 15).dbs = [⟨60, 3, 0, some 0, 5⟩] ∧ writesRetired ringing 15 0 = true ∧ domInReset ringing 16 = false
    ∧ ringDist (queueOf ringing 60).head 3 ≤ qSize ringing 60
    ∧ (∀ d ∈ (chvOf (setChv 15 { Chv.rest with dbs := [⟨60, 17, 0, some 0, 5⟩] } upCtl) 15).dbs, qSize upCtl d.q
        < ringDist (queueOf upCtl d.q).head d.tail) := by
  unfold takesWrite
  decide +kernel

/-- Queue `q` is enabled with its ring at the first spread line and one record. -/
def ringAt (q : Nat) (c : Ctl) : Ctl :=
  regsOf [(movQ q 4, 1#32), (movQ q 0, 0#32), (movQ q 0xC, 1#32), (movQ q 8, 0x400000#32), (movQctrl q, 0x401#32), (movQtail q, 1#32)] c

/-- A FILL of one line at the ring's head, in memory or fetched. -/
def fillWords : List Nat := [2, 0, taSpread + 0x400000, 1, 7, 0, 0, 0]
def fillBytes : Line := (fillWords.map (leBytes 8)).flatten
def enqueued : State := ⟨Store.put 0 fillBytes Store.empty, ringAt 71 upCtl, []⟩
def stacked : Ctl := regsOf [(movQ 71 4, 0x80004000#32), (movQ 71 0, 0#32)] (ringAt 71 upCtl)
def arrived : Ctl := setQueue 71 { Queue.rest with asked := true, came := some (resData fillBytes false) } (ringAt 71 upCtl)
def fetched (ws : List Nat) (q : Nat) : Ctl := setQueue q { Queue.rest with fetched := some ws } (ringAt q upCtl)

theorem witness_RecordsAreFetchedAndStarted :
    (queueOf enqueued.ctl 71).came = none ∧ fetchDue enqueued.ctl 71 = true ∧ (ringBase enqueued.ctl 71 0).sa = false
    ∧ (ringBase enqueued.ctl 71 0).a + 64 * ((queueOf enqueued.ctl 71).head % qSize enqueued.ctl 71) = taSpread
    ∧ reachesTa enqueued.ctl false taSpread ∧ fetchDue stacked 71 = true ∧ (ringBase stacked 71 0).sa = true
    ∧ (ringBase stacked 71 0).a = 0x400000000000 ∧ saReady stacked (saPortOf 0x400000000000) false = true
    ∧ tagFree stacked (saPortOf 0x400000000000) 1023 = true ∧ (queueOf arrived 71).came = some (resData fillBytes false)
    ∧ (queueOf arrived 71).fetchBad = none ∧ (queueOf arrived 71).tdTail = none
    ∧ dataOp ((recordWords fillBytes).getD 0 0 % 256) = true
    ∧ (fetched fillWords 71).mov.q.any (fun p => match p.2.run with | some r => decide (r.mover = some 23) | none => false) = false
    ∧ moversRun (fetched fillWords 71) = true ∧ lovFull (fetched fillWords 71) 4 1 = false
    ∧ pickQueue (of (fetched fillWords 71)) = some 71 ∧ (queueOf (fetched fillWords 71) 71).fetched = some fillWords := by
  unfold reachesTa
  decide +kernel

/-- Control records: ARRIVE and WAIT at barrier 831, INVAL of all of cores 0 and 15, FENCE on a sibling. -/
def ctrl (op arg : Nat) : List Nat := [op + arg * 2 ^ 32, 0, 0, 0, 0, 0, 0, 0]
def fencing : Ctl := withRun 1 (runOf fillWords) (fetched (ctrl 0x13 2) 0)

theorem witness_ControlCommandsRun :
    startsAtHead (fetched (ctrl 0 0) 71) 71 (ctrl 0 0)
    ∧ startsAtHead (armed 831 3 1 0 (fetched (ctrl 0x10 831) 0)) 0 (ctrl 0x10 831)
    ∧ (barOf (armed 831 3 1 0 (fetched (ctrl 0x10 831) 0)) 831).frozen = false
    ∧ startsAtHead (armed 831 3 1 0 (fetched (ctrl 0x11 831) 0)) 0 (ctrl 0x11 831)
    ∧ (((ctrl 0x11 831).getD 0 0).testBit 48 = decide ((barOf (armed 831 3 1 0 upCtl) 831).ph % 2 = 1)) := by
  unfold startsAtHead
  and_intros <;> decide +kernel

theorem witness_ControlCommandsRun_rest :
    startsAtHead (fetched (ctrl 0x12 0x18001) 0) 0 (ctrl 0x12 0x18001)
    ∧ ((ctrl 0x12 0x18001).getD 0 0).testBit 48 = true ∧ ((ctrl 0x12 0x18001).getD 0 0).testBit (32 + 15) = true
    ∧ ((ctrl 0x12 0x18001).getD 0 0).testBit (32 + 14) = false ∧ domReleased (fetched (ctrl 0x12 0x18001) 0) 15 = true
    ∧ devFenced (fetched (ctrl 0x12 0x18001) 0) = false
    ∧ startsAtHead (fetched (ctrl 0x13 2) 0) 0 (ctrl 0x13 2) ∧ (∀ x ∈ siblings 0 2, (queueOf (fetched (ctrl 0x13 2) 0) x).run = none)
    ∧ startsAtHead fencing 0 (ctrl 0x13 2) ∧ 1 ∈ siblings 0 2 ∧ (queueOf fencing 1).run = some (runOf fillWords) := by
  unfold startsAtHead
  and_intros <;> decide +kernel

/-- A NOP that is complete, and one that has ended and owes its record: in tensor memory, in a stack, or with its record accepted. -/
def doneRun : Run := { runOf [0x200] with mover := none, complete := true }
def ending : Ctl := withRun 71 doneRun (ringAt 71 upCtl)
def owing (st : Nat) (c : Ctl) : Ctl := setQueue 71 { queueOf c 71 with fin := [{ doneRun with mover := none, recSt := st }] } c
def recording : State := of (owing 0 (ringAt 71 upCtl))
def recorded : Ctl := owing 4 (ringAt 71 upCtl)
def recordSa (st : Nat) : Ctl := owing st (regsOf [(movQ 71 0xC, 0x80004000#32)] (ringAt 71 upCtl))
def doneAt (st : Nat) : Run := { doneRun with mover := none, recSt := st }

theorem witness_CommandsEndAndAreRecorded :
    (queueOf ending 71).run = some doneRun ∧ runComplete ending doneRun = true ∧ invsDone ending 71 = true
    ∧ (queueOf ending 71).fetched = none ∧ (queueOf ending 71).fetchBad = none
    ∧ (queueOf recorded 71).fin = [doneAt 4] ∧ ((doneAt 4).word 0).testBit 9 = true
    ∧ (queueOf recording.ctl 71).fin = [doneAt 0] ∧ (recordLine recording.ctl 71 (doneAt 0)).1.sa = false
    ∧ (recordLine recording.ctl 71 (doneAt 0)).1.a = taSpread + 0x400000 ∧ reachesTa recording.ctl true (taSpread + 0x400000) := by
  unfold reachesTa
  decide +kernel

theorem witness_CommandsEndAndAreRecorded_stack :
    (queueOf (recordSa 0) 71).fin = [doneAt 0] ∧ (recordLine (recordSa 0) 71 (doneAt 0)).1.sa = true
    ∧ (recordLine (recordSa 0) 71 (doneAt 0)).1.a = 0x400000400000 ∧ saTagFree (recordSa 0) (saPortOf 0x400000400000) = some 0
    ∧ saReady (recordSa 0) (saPortOf 0x400000400000) true = true
    ∧ edgeHeld (recordSa 0) (.saRq (saPortOf 0x400000400000) true 0x400000400000 0 (queueQos (recordSa 0) 71) 0) = false
    ∧ (recordSa 0).out.vague = false := by
  decide +kernel

/-- Commands that move lines from region 2 to region 3; region 1 holds MXFP8. -/
def mxTa : Nat := taSpread + 0x200000
def srcTa : Nat := taSpread + 0x400000
def dstTa : Nat := taSpread + 0x600000
def moving (r : Run) : Ctl := withRun 5 r (regsOf [(rgnEnt 1, 0x800000#32)] upCtl)
def copyRun : Run := runOf [1, srcTa, dstTa, 4, 0, 0, 0, 0]
def copySa : Run := runOf [0x401, 0x400000000000, dstTa, 4, 0, 0, 0, 0]
def sendRun : Run := runOf [10, srcTa, 0, 4, 0, 0, 0, 0]
def listed (r : Run) : Run := { r with buf := [(listKey 0, resData (List.replicate 64 1) false)] }
def gatherRun : Run := listed (runOf [3, srcTa, dstTa, 3 * 2 ^ 32 + 2, taSpread, 2, 0, 0])
def scatterRun : Run := listed (runOf [4, srcTa, dstTa, 3 * 2 ^ 32 + 2, taSpread, 2, 0, 0])
def packRun : Run := runOf [7, srcTa, mxTa, 4, 0, 0, 0, 0]
def unpackRun : Run := runOf [8, mxTa, dstTa, 4, 0, 0, 0, 0]
def foldRun : Run := runOf [9, srcTa, dstTa, 64, 0, 0, 0, 0]

theorem witness_MoversReadTheirSources :
    runsOn (moving copyRun) 0 1 5 copyRun ∧ 3 < copyRun.total (moving copyRun) ∧ copyRun.srcSa = false
    ∧ takesTa (moving copyRun) 5 (rKey 3) (srcTa + 64 * 3) .read
    ∧ srcTa + 64 * 3 = copyRun.src.a + 64 * (3 / ((copyShape copyRun).2.2 * (copyShape copyRun).2.1) * copyRun.q32 5 0
        + 3 / (copyShape copyRun).2.2 % (copyShape copyRun).2.1 * copyRun.q32 4 0 + 3 % (copyShape copyRun).2.2)
    ∧ runsOn (moving copySa) 0 1 5 copySa ∧ copySa.srcSa = true ∧ saReady (moving copySa) (saPortOf 0x400000000000) false = true
    ∧ saTagFree (moving copySa) (saPortOf 0x400000000000) = some 0
    ∧ runsOn (moving sendRun) 0 10 5 sendRun ∧ 3 < sendRun.total (moving sendRun)
    ∧ runsOn (moving gatherRun) 0 3 5 gatherRun ∧ 7 < gatherRun.total (moving gatherRun)
    ∧ takesTa (moving gatherRun) 5 (rKey 7) (srcTa + 64 * (fieldAt (leNat (List.replicate 64 1)) 32 3 * 2 + 1)) .read
    ∧ runsOn (moving scatterRun) 0 4 5 scatterRun ∧ takesTa (moving scatterRun) 5 (rKey 7) (srcTa + 64 * 7) .read := by
  unfold runsOn takesTa reachesTa
  and_intros <;> decide +kernel

theorem witness_MoversReadTheirUnits :
    runsOn (moving packRun) 0 7 5 packRun ∧ packRun.total (moving packRun) = 2
    ∧ packViews (geoAt (moving packRun) packRun.dstA.a) packRun.vty (nbits (packRun.word 3) 0 32) 1 = [2, 3]
    ∧ (∀ v ∈ [2, 3], viewOf (moving packRun) (remapNow (moving packRun)) mxTa false v = .units [mxTa + 64])
    ∧ (1 + 1) * (geoAt (moving packRun) packRun.dstA.a).e ≤ nbits (packRun.word 3) 0 32 * viewLen packRun.vty
    ∧ packBusy (moving packRun) packRun 1 = false ∧ takesTa (moving packRun) 5 (rKey 2) (srcTa + 64 * 2) .read
    ∧ runsOn (moving unpackRun) 0 8 5 unpackRun ∧ unpackRun.total (moving unpackRun) = 4
    ∧ viewOf (moving unpackRun) (remapNow (moving unpackRun)) mxTa false 3 = .units [mxTa + 64]
    ∧ unpackBusy (moving unpackRun) unpackRun 3 = false
    ∧ (∀ y ∈ sideOf (moving unpackRun) (mxTa + 64), takesTa (moving unpackRun) 5 (rKey 1) (mxTa + 64) (.unitRead y.1 y.2.1 y.2.2))
    ∧ (sideOf (moving unpackRun) (mxTa + 64)).isSome = true
    ∧ runsOn (moving foldRun) 0 9 5 foldRun ∧ 3 < foldRun.total (moving foldRun)
    ∧ foldFits (moving foldRun) (srcTa + 64 * (3 * (64 / 4) / (64 / 4))) 4 = true ∧ foldSizes (moving foldRun) foldRun = (4, 4)
    ∧ rowsStill (moving foldRun) srcTa dstTa = true ∧ takesTa (moving foldRun) 5 (rKey 6) (srcTa + 64 * 3) .read := by
  unfold runsOn takesTa reachesTa
  and_intros <;> decide +kernel

/-- The same commands once line `n` has been read. -/
def got (n : Nat) (r : Run) : Run := { r with issued := [n], buf := tabIns (rKey n) (resData ramp false) r.buf }
def fillRun : Run := runOf [2, 0, dstTa, 4, 7, 0, 0, 0]

theorem witness_MoversCopyAndFillLines :
    runsOn (moving fillRun) 0 2 5 fillRun ∧ 3 < fillRun.total (moving fillRun) ∧ fillRun.dstSa = false
    ∧ takesTa (moving fillRun) 5 (wKey 3) (dstTa + 64 * 3) (.write (List.replicate 8 (leBytes 8 (fillRun.word 4))).flatten fullMask false)
    ∧ takesTa (moving (got 3 copyRun)) 5 (wKey 3) (dstTa + 64 * 3) (.write ramp fullMask false)
    ∧ takesTa (moving (got 3 copyRun)) 5 (wKey 3) (dstTa + 64 * 3) (.write zeroLine fullMask true)
    ∧ runsOn (moving (got 3 copyRun)) 0 1 5 (got 3 copyRun) ∧ tabFind (got 3 copyRun).buf (rKey 3) = some (resData ramp false)
    ∧ runsOn (moving (got 7 gatherRun)) 0 3 5 (got 7 gatherRun) ∧ takesTa (moving (got 7 gatherRun)) 5 (wKey 7) (dstTa + 64 * 7) (.write ramp fullMask false)
    ∧ tabFind (got 7 gatherRun).buf (listKey 0) = some (resData (List.replicate 64 1) false)
    ∧ runsOn (moving (got 7 scatterRun)) 0 4 5 (got 7 scatterRun)
    ∧ takesTa (moving (got 7 scatterRun)) 5 (wKey 7) (dstTa + 64 * (fieldAt (leNat (List.replicate 64 1)) 32 3 * 2 + 1))
      (.write ramp fullMask false) := by
  unfold runsOn takesTa reachesTa
  and_intros <;> decide +kernel

def unit : LineRes := { resData ramp false with side := List.replicate 8 0x7F }
def unpackGot : Run := { unpackRun with issued := [1], buf := [(rKey 1, unit)] }
def packGot : Run := { packRun with issued := [2, 3], buf := [(rKey 2, resData ramp false), (rKey 3, resData ramp false)] }
def foldGot : Run := { foldRun with issued := [6], buf := [(rKey 6, resData ramp false)] }

theorem witness_MoversConvertLines :
    takesTa (payViews 1 (moving unpackGot)) 5 (wKey 3) (dstTa + 64 * 3) (.write zeroLine fullMask false) ∧ unpackBusy (moving unpackGot) unpackGot 3 = false
    ∧ runsOn (moving unpackGot) 0 8 5 unpackGot ∧ unpackGot.dstSa = false
    ∧ viewOf (moving unpackGot) (remapNow (moving unpackGot)) unpackGot.src.a unpackGot.vty 3 = .units [mxTa + 64]
    ∧ (∀ u ∈ [mxTa + 64], (u - unpackGot.src.a) / 64 ∈ unpackGot.issued)
    ∧ [mxTa + 64].map (fun u => tabFind unpackGot.buf (rKey ((u - unpackGot.src.a) / 64))) = [some unit]
    ∧ (∀ y ∈ sideOf (moving packGot) (mxTa + 64),
        takesTa (payViews 2 (moving packGot)) 5 (wKey 1) (mxTa + 64 * 1) (.unitWrite ramp false y.1 y.2.1 [0, 0, 0, 0, 0, 0, 0, 0]))
    ∧ ([2, 3].filter (fun v => decide (v * viewLen packGot.vty / (geoAt (moving packGot) mxTa).e = 1))).length = 2
    ∧ (1 + 1) * (geoAt (moving packGot) packGot.dstA.a).e ≤ nbits (packGot.word 3) 0 32 * viewLen packGot.vty
    ∧ packBusy (moving packGot) packGot 1 = false ∧ runsOn (moving packGot) 0 7 5 packGot
    ∧ (∀ v ∈ [2, 3], v ∈ packGot.issued) ∧ [2, 3].map (fun v => tabFind packGot.buf (rKey v)) = [resData ramp false, resData ramp false].map some
    ∧ takesTa (moving foldGot) 5 (wKey 3) (dstTa + 64 * 3) (.fold foldGot.foldOp 0 false 0 true true .ok (List.replicate 16 (some 1)))
    ∧ runsOn (moving foldGot) 0 9 5 foldGot ∧ foldSizes (moving foldGot) foldGot = (4, 4) ∧ rowsStill (moving foldGot) srcTa dstTa = true
    ∧ foldCover 4 4 (foldJob (moving foldGot) 3 foldGot) = (48, 16, 3, 3)
    ∧ 2 * 3 + 0 ∈ foldGot.issued ∧ tabFind foldGot.buf (rKey (2 * 3 + 0)) = some (resData ramp false)
    ∧ foldFits (moving foldGot) (foldGot.dstA.a + 64 * 3) 4 = true
    ∧ (foldSources foldGot.foldOp 4 48 16 3 [resData ramp false]).any Option.isSome = true := by
  unfold runsOn takesTa reachesTa
  and_intros <;> decide +kernel

/-- Entry 0 of a routing list: token 1, expert 2, valid, or placed in slot 0. -/
def entry (flags : Nat) : Line := [1, 0, 2, BitVec.ofNat 8 flags] ++ List.replicate 60 0
def routeRun (flags : Nat) : Run :=
  { runOf [5 + 255 * 2 ^ 40 + 4 * 2 ^ 48, srcTa, dstTa, taSpread, taSpread + 0x1000, 0, 3 + 7 * 2 ^ 16, 0] with
      buf := [(listKey 0, resData (entry flags) false)] }
def combineRun (flags : Nat) : Run :=
  { runOf [6 + 255 * 2 ^ 40 + 4 * 2 ^ 48, 0, srcTa, taSpread, dstTa, 0, 3 + 7 * 2 ^ 16, 0] with
      buf := [(listKey 0, resData (entry flags) false)] }

theorem witness_RoutingEntriesAreTaken :
    runsOn (moving (routeRun 1)) 0 5 5 (routeRun 1) ∧ 0 < (routeRun 1).entries
    ∧ tabFind (routeRun 1).buf (listKey (0 / 4)) = some (resData (entry 1) false) ∧ entryAt (entry 1) 0 = ⟨1, 2, true, false, 1, 0, 0⟩
    ∧ (routeRun 1).eLo ≤ 2 ∧ 2 ≤ (routeRun 1).eHi ∧ 1 < (routeRun 1).tokens ∧ tabGet 0 (routeRun 1).placed 2 ≠ (routeRun 1).capacity
    ∧ takesTa (moving (routeRun 1)) 5 (auxKey 0) (nbits ((routeRun 1).word 3) 0 36 + 64 * (0 / 4))
      (.write (entryWrite 0 2 0).1 (entryWrite 0 2 0).2 false)
    ∧ runsOn (moving (combineRun 3)) 0 6 5 (combineRun 3) ∧ entryAt (entry 3) 0 = ⟨1, 2, true, true, 3, 0, 0⟩
    ∧ 0 < (combineRun 3).capacity ∧ (combineRun 3).eLo ≤ 2 ∧ 2 ≤ (combineRun 3).eHi ∧ 1 < (combineRun 3).tokens
    ∧ rowsStill (moving (combineRun 3)) (srcTa + 64 * (2 * (combineRun 3).q32 5 1 + 0)) (dstTa + 64 * (1 * (combineRun 3).q32 5 0)) = true
    ∧ runsOn (moving (combineRun 1)) 0 6 5 (combineRun 1) ∧ (entryAt (entry 1) 0).placed = false := by
  unfold runsOn takesTa reachesTa
  and_intros <;> decide +kernel

/-- A read, a write, a record fetch or a completion-record write outstanding on stack 19, and a read of the host's whose first beat has come. -/
def asked (wr : Bool) (key : Nat) : SaReq := ⟨.sp 19, 1023, 5, key, wr, []⟩
def asking (wr : Bool) (key : Nat) : Ctl :=
  { moving copySa with mov := { (moving copySa).mov with sa := [asked wr key], saCredit := [(saIndex (.sp 19), 1)] } }
def hostHalf (got : List (Nat × Status × List Byte)) : SaReq := ⟨.hpo, 7, 5, rKey 0, false, got⟩
def hostAsking (got : List (Nat × Status × List Byte)) : Ctl :=
  { moving copySa with mov := { (moving copySa).mov with sa := [hostHalf got], saCredit := [(saIndex .hpo, 2)] } }

theorem witness_StackAnswersReachTheirCommand :
    (queueOf (asking false (rKey 0)) 5).run = some copySa ∧ saFind (asking false (rKey 0)) (.sp 19) 1023 false = some (asked false (rKey 0))
    ∧ saFind (hostAsking []) .hpo 7 false = some (hostHalf []) ∧ (⟨1, false, ramp⟩ : RsBeat).last = false
    ∧ saFind (hostAsking [(1, .ok, [])]) .hpo 7 false = some (hostHalf [(1, .ok, [])]) ∧ (⟨0, true, ramp⟩ : RsBeat).last = true
    ∧ tabGet 0 (hostAsking []).mov.saCredit (saIndex .hpo) ≠ 0
    ∧ saFind (asking true (wKey 0)) (.sp 19) 1023 true = some (asked true (wKey 0)) ∧ (asking true (wKey 0)).mov.wd = []
    ∧ wKey 0 ≠ recordKey ∧ wKey 0 ≠ fetchKey ∧ rKey 0 ≠ recordKey ∧ rKey 0 ≠ fetchKey
    ∧ tabGet 0 (asking false (rKey 0)).mov.saCredit (saIndex (.sp 19)) ≠ 0
    ∧ saFind (asking false fetchKey) (.sp 19) 1023 false = some (asked false fetchKey) ∧ (queueOf (asking false fetchKey) 5).stale = false
    ∧ saFind (asking true recordKey) (.sp 19) 1023 true = some (asked true recordKey)
    ∧ (queueOf (setQueue 5 { Queue.rest with fin := [copySa] } (asking true recordKey)) 5).fin = [copySa] := by
  decide +kernel

/-- Stack 19 is HOT. -/
def heated : Ctl := { upCtl with pin := { upCtl.pin with hot := [19], rate := [(19, 128)] }, mov := { upCtl.mov with hotSince := [(19, 5)] } }

theorem witness_HotStacksArePaced : pacesRun up.ctl = true ∧ pacesRun heated = true ∧ up.ctl.pin.hot.contains 0 = false ∧ heated.pin.hot.contains 19 = true := by decide +kernel

/-- A teardown of context 4 with every stopped queue recorded, and the queues and windows of that context. -/
def tearing : Ctl := { upCtl with mov := { upCtl.mov with td := some ⟨4, [5]⟩ } }
def tearable : Ctl :=
  setWin 255 { Win.rest with isOpen := true } (regsOf [(movQctrl 5, 0x04000401#32), (lndWctrl 255, 0x043FF000#32)] (withRun 5 copyRun upCtl))

theorem witness_QuiesceAndTeardown :
    takesWrite up .mp movSq ∧ quiesced (regsOf [(movSq, 0x80000#32)] upCtl) 19 = true ∧ saOut (regsOf [(movSq, 0x80000#32)] upCtl) (.sp 19) = []
    ∧ takesWrite (of tearable) .mp (rg 8 0x10) ∧ tearable.mov.td = none ∧ bits (reg tearable (movQctrl 5)) 24 8 = bits 4#32 0 8
    ∧ (queueOf tearable 5).run = some copyRun ∧ (winOf tearable 255).isOpen = true ∧ winCtx tearable 255 = bits 4#32 0 8
    ∧ takesWrite (of tearing) .acien (rg 8 0x10) ∧ tearing.mov.td = some ⟨4, [5]⟩ ∧ [5].all (queueStopped tearing) = true := by
  unfold takesWrite
  decide +kernel

/-- Window 255 is set up over two lines; then open with two lines expected and a line in flight with each outcome. -/
def windowed (e : Word) : Ctl :=
  regsOf [(lndW 255 0, 0#32), (lndW 255 4, 1#32), (lndW 255 8, 128#32), (lndW 255 0xC, e)] upCtl
/-- Window 255, bound to barrier 831, with one line expected and in flight. -/
def bound : Ctl :=
  let c := regsOf [(lndWctrl 255, 0x0033F000#32)] (setWin 255 { Win.rest with isOpen := true, gen := 9 } (windowed 64#32))
  armed 831 3 1 0 { c with lnd := { c.lnd with land := [⟨6, 11, 255, 9, some .ok, none⟩], next := 7 } }

theorem witness_WindowsOpenCountAndClose_bound :
    bound.lnd.land.find? (fun x => decide (x.id = 6)) = some ⟨6, 11, 255, 9, some .ok, none⟩ ∧ (winOf bound 255).isOpen = true
    ∧ (winOf bound 255).gen = 9 ∧ winBound bound 255 = 831 ∧ winExp bound 255 ≤ (winOf bound 255).rcv + 64 ∧ bound.srl.dead = false
    ∧ (barOf bound 831).frozen = false ∧ (barOf bound 831).cur + 1 ≠ (barOf bound 831).p
    ∧ (barOf (armed 831 3 2 0 bound) 831).cur + 1 = (barOf (armed 831 3 2 0 bound) 831).p := by
  decide +kernel

def landing (out : Option Status) : Ctl :=
  { setWin 255 { Win.rest with isOpen := true, gen := 9 } (windowed 128#32) with lnd :=
      { (setWin 255 { Win.rest with isOpen := true, gen := 9 } (windowed 128#32)).lnd with land := [⟨6, 11, 255, 9, out, none⟩], next := 7 } }

theorem witness_WindowsOpenCountAndClose :
    takesWrite (of (windowed 128#32)) .mp (lndWctrl 255) ∧ bit 1#32 2 = false ∧ bit (reg (windowed 128#32) brlAbortSt) 31 = false
    ∧ (winOf (windowed 128#32) 255).isOpen = false ∧ domReleased (windowed 128#32) 17 = true ∧ devFenced (windowed 128#32) = false
    ∧ winExp (windowed 128#32) 255 = 128 ∧ winSize (windowed 128#32) 255 = 128
    ∧ winFits (windowed 128#32) (winBase (windowed 128#32) 255) 128 = true
    ∧ (landing (some .ok)).lnd.land.find? (fun x => decide (x.id = 6)) = some ⟨6, 11, 255, 9, some .ok, none⟩
    ∧ (winOf (landing (some .ok)) 255).isOpen = true ∧ (winOf (landing (some .ok)) 255).gen = 9
    ∧ winBound (landing (some .ok)) 255 = 0x3FF
    ∧ (landing (some .absent)).lnd.land.find? (fun x => decide (x.id = 6)) = some ⟨6, 11, 255, 9, some .absent, none⟩
    ∧ domInReset (landing (some .absent)) 17 = false := by
  unfold takesWrite
  decide +kernel

theorem witness_RecordsClearAndStreamsReseed :
    hubTakes up.ctl .mp (rg 1 0x1F0) = true ∧ hubTakes up.ctl .acien (rg 6 0xC0) = true ∧ fennelOn up.ctl = true := by
  decide +kernel

/-! Schedule groups, responses and kernel ends. -/

/-- Group 3 holds for SUPPLY_DIP in the last pc of its unit, and has held long. -/
def holding : Ctl := setGrp 3 { idleGrp with active := true, left := 1, cause := some .supplyDip, startRtc := 5 } upCtl
def paced : Ctl := { setGrp 0 { idleGrp with sincePace := 38 } upCtl with frPace := true }

theorem witness_HoldsAndPacing :
    thymeRuns holding = true ∧ upCtl.pwr.entry = none ∧ (grpOf paced 0).tested = false ∧ (grpOf holding 3).active = true ∧ (grpOf holding 3).left = 1 ∧ (grpOf holding 3).cause.isSome = true
    ∧ (grpOf holding 3).warned = false ∧ 32 * bits (reg holding thyCfg) 24 4 < holding.rtc - (grpOf holding 3).startRtc
    ∧ thymeRuns paced = true ∧ baseLogicOn upCtl = true ∧ monitorsOn upCtl = true ∧ baseLogicOn { upCtl with dev := { upCtl.dev with run := .asleep } } = false ∧ paced.frPace = true ∧ profileOf paced 0 ≠ 1 ∧ (grpOf paced 0).next1 = none
    ∧ 40 ≤ (grpOf paced 0).sincePace + leadTicks (grpOf paced 0) := by
  decide +kernel

/-- A complete write of core 15 that holds its range, and its registered kernel end. -/
def retiring : Ctl :=
  let c := (after (.write (.vx 15) (rq taSpread 0 0)) up).ctl
  { c with port := { c.port with reqs := c.port.reqs.map (fun r =>
      { r with released := true, nOps := 1, res := [(0, resSt .ok)], beatsIn := 1, range := .held }) } }
def kernelEnd : Ctl := setChv 15 { Chv.rest with ends := [⟨3, some 0, 2, 5, none⟩] } upCtl

theorem witness_WritesRetireAndKernelsEnd :
    (findReq retiring 0).map (fun r => (r.range, r.complete, portCore r.port)) = some (.held, true, some 15)
    ∧ (chvOf kernelEnd 15).ends = [⟨3, some 0, 2, 5, none⟩] ∧ writesRetired kernelEnd 15 0 = true ∧ zoneFenced kernelEnd 15 = false
    ∧ edgeHeld kernelEnd (.kDone 15 3) = false ∧ kernelEnd.out.vague = false := by
  decide +kernel

/-- A served read of an elastic port with a credit, one of a fixed-lag port at its tick, and a complete write. -/
def serve (p : Port) (credit : Nat) : Ctl :=
  let c := (after (.read p (rq taSpread 0 0)) up).ctl
  { c with port := { c.port with credit := [(portIndex p, credit)], reqs := c.port.reqs.map (fun r =>
      { r with released := true, nOps := 1, res := [(0, resData ramp false)], due := r.due.map (fun _ => 100) }) } }

theorem witness_ResponsesAreDriven :
    fixedLag (serve (.cd 15) 255) (.cd 15) = false ∧ takesCredit (serve (.cd 15) 255) (.cd 15) = true
    ∧ fixedLag up.ctl .hp = false ∧ takesCredit up.ctl .hp = true ∧ rsDriven (serve (.cd 15) 255) (.cd 15) = false
    ∧ (findReq (serve (.cd 15) 255) 0).any (fun r => !r.discard && r.onRs && r.released && decide (r.out < r.beats)
        && beatReady (serve (.cd 15) 255) r r.out && !sameTagFirst (serve (.cd 15) 255) r
        && !edgeHeld (serve (.cd 15) 255) (beatEdge (serve (.cd 15) 255) r r.out)) = true := by
  decide +kernel

theorem witness_ResponsesAreDriven_lag :
    0 < tabGet 0 (serve (.cd 15) 255).port.credit (portIndex (.cd 15))
    ∧ groupOf (serve (.ma 0) 0) (.ma 0) = some 0 ∧ (grpOf (serve (.ma 0) 0) 0).active = false ∧ fixedLag (serve (.ma 0) 0) (.ma 0) = true
    ∧ ((serve (.ma 0) 0).port.reqs.find? (fun r => decide (r.port = .ma 0 ∧ r.out < r.beats)
        && (match r.due with | some d => decide (d + r.out ≤ (grpOf (serve (.ma 0) 0) 0).tick) | none => false))).map (fun r => (r.discard, beatReady (serve (.ma 0) 0) r r.out)) = some (false, true)
    ∧ (findReq retiring 0).any (fun r => decide (r.op = .write) && !r.onRs && !r.answered && decide (r.dataBeats ≤ r.beatsIn)
        && r.complete && !r.discard) = true
    ∧ wrDriven retiring (.vx 15) = false ∧ (findReq retiring 0).map (sameTagFirst retiring) = some false
    ∧ retiring.out.vague = false ∧ edgeHeld retiring (.wr (portIndex (.vx 15)) 5 .ok false) = false := by
  decide +kernel

/-! Barrier registers, messages, Acien. -/

def forcing : Ctl := regsOf [(srlCfg, 2#32)] (armed 831 3 1 0 upCtl)

theorem witness_BarrierRegistersAct :
    up.ctl.srl.dead = false ∧ takesWrite up .mp (rg 3 (0x8000 + 0x20 * 831)) ∧ takesWrite (of forcing) .acien (rg 3 (0x801C + 0x20 * 831))
    ∧ (barOf forcing 831).frozen = false ∧ dbgView forcing = 2 ∧ bits 0x0302#32 0 8 < (barOf forcing 831).p
    ∧ bits 0x0302#32 8 8 ≤ (barOf forcing 831).p ∧ (barOf forcing 831).relIrq = false
    ∧ bit 0x0302#32 29 = false ∧ bit 0x0302#32 30 = false ∧ bit 0x0302#32 31 = false := by
  unfold takesWrite
  decide +kernel

/-- R359 on a barrier with P = 3: set with cur = 3 and rel together complete two phases, and a set of 3 and 3 leaves no count of P
(Table 9-1). -/
theorem test_forced_phases :
    (barOf (forceWrite 831 0xC0000103#32 forcing) 831).ph = 2 ∧ (barOf (forceWrite 831 0xC0000303#32 forcing) 831).ph = 2
    ∧ (barOf (forceWrite 831 0x80000303#32 forcing) 831).ph = 2 ∧ (barOf (forceWrite 831 0x80000303#32 forcing) 831).cur = 0
    ∧ (barOf (forceWrite 831 0x80000403#32 forcing) 831).ph = 0 := by
  decide +kernel

/-- Channel `k` holds a message. -/
def mailed (k : Nat) (w : Word) : Ctl := setChan k ⟨w, true, false, false, 0⟩ upCtl

theorem witness_MessagesAndDoorbells :
    mbReady up.ctl 0 = true ∧ mbReady up.ctl 15 = true ∧ takesWrite up .mp (rg 5 0) ∧ takesWrite up .mp (rg 5 (16 * 17))
    ∧ (chanOf (mailed 17 5#32) 17).full = true ∧ takesWrite (of (mailed 17 5#32)) .acien (rg 5 (16 * 17 + 8))
    ∧ takesWrite (of (mailed 17 5#32)) .mp (rg 5 (16 * 17)) ∧ (mailed 17 5#32).out.vague = false ∧ up.ctl.out.vague = false
    ∧ (chanOf (mailed 0 5#32) 0).full = true ∧ (chanOf (mailed 16 5#32) 16).full = true ∧ edgeHeld (mailed 16 5#32) (.mbAck 15 0#32) = false
    ∧ takesWrite up .mp mbxDb ∧ takesWrite up .acien (rg 5 0x208) := by
  unfold takesWrite
  decide +kernel

/-- The copy of slice 127 runs. -/
def migrating (m : Mig) : Ctl := setMig 15 m upCtl

theorem witness_AcienAnswersItsCommands :
    takesMsg (mailed 0 0x01000000#32) 0 (fun m => decide (m = 0x01)) = true
    ∧ takesMsg (mailed 17 0x02000000#32) 17 (fun m => decide (m = 0x02)) = true
    ∧ takesMsg (mailed 5 0x1000007F#32) 5 (fun m => decide (m = 0x10)) = true
    ∧ (migOf (mailed 5 0x1000007F#32) (msgArg (mailed 5 0x1000007F#32) 5 % 128 / 8)).active = false ∧ hasSpare (mailed 5 0x1000007F#32) 15 = true
    ∧ hasSpare { mailed 5 0x1000007F#32 with prt := { upCtl.prt with retired := [143] } } 15 = false
    ∧ takesMsg (setChan 5 ⟨0x1000007F#32, true, false, false, 0⟩ (migrating ⟨true, true, 127, 143, 0, none, none, none⟩)) 5 (fun m => decide (m = 0x10)) = true
    ∧ (migOf (setChan 5 ⟨0x1000007F#32, true, false, false, 0⟩ (migrating ⟨true, true, 127, 143, 0, none, none, none⟩)) 15).active = true
    ∧ takesMsg (mailed 0 0x11001F5F#32) 0 (fun m => decide (m = 0x11)) = true ∧ regionPool upCtl 8031 = 1 ∧ regionPool upCtl 8032 = 2
    ∧ regionPool upCtl 1535 = 0
    ∧ takesMsg (mailed 0 0x1200FFFF#32) 0 (fun m => decide (m = 0x12)) = true
    ∧ takesMsg (mailed 0 0x13000000#32) 0 (fun m => !decide (m ∈ [0x01, 0x02, 0x10, 0x11, 0x12])) = true
    ∧ takesWrite up .mp (rg 3 0x08) ∧ up.ctl.srl.dump = none ∧ upCtl.prt.cap = [] ∧ upCtl.prt.acien = none ∧ baseLogicOn upCtl = true
    ∧ { upCtl.prt with cap := [⟨1, 0, 0, 0, 0, 0, 0, 0, 5, 0⟩] }.cap ≠ [] := by
  unfold takesWrite
  decide +kernel

/-- The lines of the dump can be written in an idle device, and the bundle of the first one holds them in a full retrain. -/
theorem witness_AcienAnswersItsCommands_dump :
    ownAvail (of (mailed 17 0x02000000#32)) [taDump] = .ready
    ∧ ownAvail (of (setLane 0 0 { Lane.rest with retrain := true } (mailed 17 0x02000000#32))) [taDump] = .wait (some .retrain)
    ∧ (of { upCtl with srl := { upCtl.srl with dump := some 2 } }).ctl.srl.dump = some 2 := by
  decide +kernel

theorem witness_AcienReadsTheLog :
    0xE10000000 + 16 * (msgArg (mailed 0 0x1200FFFF#32) 0 % 65536) = 0xE100FFFF0 ∧ reachesTa (mailed 0 0x1200FFFF#32) false 0xE100FFFC0
    ∧ (mailed 0 0x1200FFFF#32).prt.acien = none
    ∧ { upCtl.prt with acien := some ⟨.read 0xE100FFFF0, some (resData ramp false)⟩ }.acien = some ⟨.read 0xE100FFFF0, some (resData ramp false)⟩ := by
  unfold reachesTa
  and_intros <;> decide +kernel

/-- SCRUB_REGION of region 0, whose first line holds a flipped bit: its next line, granted; held by a retrain; at its end, with five lines
repaired; and with another channel's command under way. -/
def regionAsked (x : RegScrub) (lane : Lane) : State :=
  ⟨(Store.put 0 ramp Store.empty).setUpset 0 [575], setLane 0 0 lane (setRegion (some x) (mailed 5 0x11000000#32)), []⟩
def fresh : RegScrub := ⟨5, 0, 0, 0, none⟩
def presented (lane : Lane) : State :=
  (regionAsked fresh lane).onCtl (fun c => setRegion (some { fresh with asked := some ⟨0, 0, taSpread, []⟩ }) (nextSerial c))

theorem witness_AcienScrubsARegion :
    (regionAsked fresh Lane.rest).onCtl toSlices = regionAsked fresh Lane.rest ∧ regionPool (regionAsked fresh Lane.rest).ctl 0 ≠ 2 ∧ takesMsg (regionAsked fresh Lane.rest).ctl 5 (fun m => decide (m = 0x11)) = true
    ∧ regionNext (regionAsked fresh Lane.rest) fresh = some (taSpread, ⟨0, 0, 0⟩)
    ∧ askedFor (regionAsked fresh Lane.rest).ctl none taSpread (scrubExtra taSpread ⟨0, 0, 0⟩ [] (regionAsked fresh Lane.rest))
      = ⟨0, 0, taSpread, []⟩
    ∧ granted (presented Lane.rest) 0 ⟨0, 0, taSpread, []⟩
    ∧ backAvail (presented { Lane.rest with retrain := true }) ⟨0, 0, taSpread, []⟩ = .wait (some .retrain)
    ∧ isParity upCtl taSpread = false ∧ tabFind (regionAsked fresh Lane.rest).store.upsets 0 = some [575]
    ∧ regionNext (regionAsked ⟨5, 0, taSpread + 1, 5, none⟩ Lane.rest) ⟨5, 0, taSpread + 1, 5, none⟩ = none
    ∧ ((regionAsked ⟨6, 0, 0, 0, none⟩ Lane.rest).ctl.prt.region.getD fresh).chan ≠ 5 := by
  unfold granted
  and_intros <;> decide +kernel

/-- Another access of a higher class waits at the slice: the arbiter does not grant the scrub. -/
theorem witness_AcienScrubsARegion_behind :
    (taOf upCtl ⟨0, 0, 1⟩).isSome = true ∧ ∀ ta ∈ taOf upCtl ⟨0, 0, 1⟩, backgroundFirst ((presented Lane.rest).onCtl (fun c => { c with
      port := { c.port with ops := [{ opAt (.req 7 0) ta .read with qos := 5 }] } })) 0 ⟨0, 0, taSpread, []⟩ = false := by
  decide +kernel

/-! Protection. -/

/-- The first line of slice 0 holds a flipped bit. -/
def flipped : State := ⟨(Store.put 0 ramp Store.empty).setUpset 0 [575], upCtl, []⟩

theorem witness_ScrubbingCorrectsLines :
    flipped.onCtl toSlices = flipped ∧ logicalOf upCtl 0 = some 0 ∧ scrubDue upCtl 0 ((bankCount upCtl - (List.range 48).length) * 16384 + 0) = true
    ∧ scrubNext flipped 0 (if (scrubOf upCtl 0).on then (scrubOf upCtl 0).left else List.range (bankCount upCtl)) (scrubOf upCtl 0).r
      = some (0, 0, List.range 48)
    ∧ taOf upCtl ⟨0, 0, 0⟩ = some taSpread ∧ askedFor upCtl (scrubOf upCtl 0).asked taSpread (scrubExtra taSpread ⟨0, 0, 0⟩ [] flipped)
      = ⟨0, 0, taSpread, []⟩
    ∧ granted (keepUpset ⟨0, 0, 0⟩ [] (flipped.onCtl (fun c => setScrub 0 ⟨true, List.range 48, 0, some ⟨0, 0, taSpread, []⟩⟩ (nextSerial c)))) 0
        ⟨0, 0, taSpread, []⟩
    ∧ banksOn upCtl ⟨0, 0, 0⟩
    ∧ redirect upCtl 0 (Loc.x ⟨0, 0, 0⟩) = 0 ∧ isParity upCtl taSpread = false
    ∧ tabFind flipped.store.upsets (physKey 0 0 0) = some [575] ∧ flipped.store.isPoison (physKey 0 0 0) = false
    ∧ flipped.store.isZero (physKey 0 0 0) = false ∧ allZero (flipped.store.data (physKey 0 0 0)) = false
    ∧ baseLogicOn upCtl = true ∧ bits (reg { upCtl with rtc := 100000000000 } prtScrubCfg) 0 8 * 3600000000 ≤ 100000000000 := by
  unfold banksOn granted
  decide +kernel

/-- Bundles at their limits: one error before the threshold, a second failed lane, a full retrain. -/
def laned (x : Lane) : Ctl := setLane 143 2 x upCtl

theorem witness_LanesFailAndRetrain :
    (laned { Lane.rest with winStart := 10000000 }).rtc < 10000000 + 1000 * bits (reg upCtl prtLaneCfg) 8 8
    ∧ tabGet 0 (laneOf (laned { Lane.rest with crc := [(17, 15)] }) 143 2).crc 17 + 1 = bits (reg upCtl prtLaneCfg) 0 8
    ∧ tabGet 0 Lane.rest.crc 17 + 1 < bits (reg upCtl prtLaneCfg) 0 8 ∧ 2 < upCtl.part.tiers
    ∧ bits (reg upCtl prtLaneCfg) 20 8 ≠ 0 ∧ Lane.rest.freeSpare.isSome = true ∧ Lane.rest.retrain = false
    ∧ Lane.rest.trained + 1000000 * bits (reg upCtl prtLaneCfg) 20 8 ≤ { upCtl with rtc := 100000000 }.rtc
    ∧ (laneOf (laned { Lane.rest with retrain := true }) 143 2).retrain = true := by
  decide +kernel

/-- Slice 120's copy at line 0, and slice 127's copy complete. -/
def copying : State := ⟨Store.put (physKey 135 0 0) ramp Store.empty, migrating ⟨true, true, 120, 143, 0, none, none, none⟩, []⟩
def copyAsk (ta : Nat) : Asked := askedFor copying.ctl none ta (copyExtra ta ⟨120, 0, 0⟩ [] copying)
def copied : Ctl := migrating ⟨true, true, 127, 143, 16384 * 48, none, none, none⟩
/-- The watermark line of slice 120 has been read and is presented to the spare. -/
def putting (y : LineRes) : Mig := ⟨true, true, 120, 143, 5, none, some (y, false), some ⟨0, 0, taSpread, []⟩⟩
def writingCopy (y : LineRes) : State := ⟨Store.put (physKey 135 0 5) ramp Store.empty, migrating (putting y), []⟩
/-- Slice 127 had many rebuilds. -/
def worn : Ctl :=
  { regsOf [(prtPolicy, 0x01100002#32)] upCtl with prt := { upCtl.prt with hour := [(127, (2, 0))] } }

theorem witness_MigrationsCopyAndSwap :
    copying.onCtl toSlices = copying ∧ hubTakes upCtl .mp (rg 10 0) = true ∧ (migOf upCtl 15).active = false ∧ hasSpare upCtl 15 = true
    ∧ (migOf copying.ctl 15).active = true ∧ acienRuns worn = true ∧ migWanted worn 127 = true
    ∧ worn.pwr.entry = none
    ∧ migOf copying.ctl 15 = ⟨true, true, 120, 143, 0, none, none, none⟩ ∧ worn.dev.hub = .idle ∧ copying.ctl.prt.badMig.contains 15 = false
    ∧ copying.ctl.prt.badCommitted.contains 120 = false ∧ (bankOf copying.ctl (committed copying.ctl 120) 0).st = .on
    ∧ (bankOf copying.ctl 143 0).st = .on ∧ (taOf copying.ctl ⟨120, 0, 0⟩).isSome = true
    ∧ (∀ ta ∈ taOf copying.ctl ⟨120, 0, 0⟩, isParity copying.ctl ta = false
        ∧ granted (keepUpset ⟨120, 0, 0⟩ [] (copying.onCtl (fun c => setMig 15 { migOf copying.ctl 15 with asked := some (copyAsk ta) } (nextSerial c))))
          (committed copying.ctl 120) (copyAsk ta))
    ∧ intact copying ⟨120, 0, 0⟩
    ∧ migOf copied 15 = ⟨true, true, 127, 143, 16384 * bankCount copied, none, none, none⟩ ∧ copied.prt.pendingBad.contains 15 = false
    ∧ { copied.prt with pendingBad := [15] }.pendingBad.contains 15 = true := by
  unfold intact granted
  decide +kernel

theorem witness_MigrationsCopyAndSwap_put :
    (writingCopy (resData ramp false)).onCtl toSlices = writingCopy (resData ramp false)
    ∧ migOf (writingCopy (resData ramp false)).ctl 15 = putting (resData ramp false) ∧ (taOf upCtl ⟨120, 0, 5⟩).isSome = true
    ∧ copyStale ⟨120, 0, 5⟩ (resData ramp false) false (writingCopy (resData ramp false)) = false
    ∧ copyStale ⟨120, 0, 5⟩ (resData ramp false) false (of (migrating (putting (resData ramp false)))) = true
    ∧ copyStale ⟨120, 0, 5⟩ (resSt .poison) false ⟨Store.poison false (physKey 135 0 5) Store.empty, migrating (putting (resSt .poison)), []⟩ = false
    ∧ (resData ramp false).data.length = 64 ∧ (resSt .poison).data.length = 64 ∧ (resSt .poison).st ≠ .ok
    ∧ putReady (writingCopy (resData ramp false)).ctl (putting (resData ramp false)) 0 = true
    ∧ backgroundFirst (writingCopy (resData ramp false)) 143 ⟨0, 0, taSpread, []⟩ = true
    ∧ (bankOf (writingCopy (resData ramp false)).ctl (committed (writingCopy (resData ramp false)).ctl 120) 0).st = .on
    ∧ (taOf upCtl ⟨120, 0, 4⟩).isSome = true ∧ (∀ ta ∈ taOf upCtl ⟨120, 0, 4⟩, backgroundFirst ((writingCopy (resData ramp false)).onCtl (fun c =>
        { c with port := { c.port with ops := [{ opAt (.req 7 0) ta .read with qos := 5 }] } })) 143 ⟨0, 0, taSpread, []⟩ = false) := by
  and_intros <;> decide +kernel

/-- One captured event, and the log line it goes to. -/
def capt : Cap := ⟨1, 0, 0, 0, 0, 0, 0, 0, 5, 0⟩
def capturing : State := of { upCtl with prt := { upCtl.prt with cap := [capt] } }

theorem witness_CapturedEventsReachTheLog :
    hubTakes capturing.ctl .acien (rg 11 0x6C) = true ∧ hubTakes capturing.ctl .mp (rg 11 0x6C) = true ∧ acienRuns capturing.ctl = true
    ∧ capturing.ctl.prt.cap = [capt] ∧ capturing.ctl.prt.logLast = none ∧ sorrelStill capturing.ctl = false ∧ capturing.ctl.prt.acien = none
    ∧ (logLine (reg capturing.ctl prtLogWp).toNat capt).1 = 0xE10000000 ∧ reachesTa capturing.ctl true 0xE10000000
    ∧ { capturing.ctl.prt with acien := some ⟨.log true capt, some (resSt .ok)⟩ }.acien = some ⟨.log true capt, some (resSt .ok)⟩ := by
  unfold reachesTa
  decide +kernel

/-! Power. -/

/-- Bank 47 of slice 143's neighbour 142 in each state; its near group of T2 has policy IDLE. -/
def banked (b : Bank) : Ctl := setBank 142 47 b (regsOf [(pwrGrp 15, 0x400#32)] upCtl)

theorem witness_BanksFollowTheirPolicies :
    hubTakes upCtl .mp (pwrGrp 15) = true ∧ (grpAfter upCtl 15 0xC00#32).1 = 0xC00#32 ∧ (grpAfter (regsOf [(rgnEnt 1, 0x100#32)] upCtl) 15 0x300#32).2 = true
    ∧ hubTakes upCtl .acien pwrCtrl = true ∧ upCtl.pwr.entry = none
    ∧ 47 < bankCount upCtl ∧ twin upCtl 142 = none ∧ (bankOf (banked Bank.rest) 142 47).st = .on ∧ idlesToRet (banked Bank.rest) 142 47 = true
    ∧ (bankOf (banked Bank.rest) 142 47).last + bits (reg upCtl pwrIdleUs) 0 16 ≤ upCtl.rtc
    ∧ (bankOf (banked { Bank.rest with st := .ret, want := true }) 142 47).want = true ∧ (bankOf (banked { Bank.rest with st := .ret }) 142 47).want = false
    ∧ movesOn { upCtl with pwr := { upCtl.pwr with moves := [⟨bankKey 142 47, .on, 0, false⟩] } } 142 47 = true ∧ upCtl.pwr.freeze = [] ∧ paceAllows upCtl 1 = true ∧ wakeQual upCtl 142 47 = 0
    ∧ (bankOf (banked { Bank.rest with st := .waking }) 142 47).lost = false
    ∧ (bankOf (banked { Bank.rest with st := .waking, lost := true }) 142 47).lost = true ∧ upCtl.pwr.moves = []
    ∧ hubTakes (regsOf [(pwrSt, 0x80000000#32)] upCtl) .mp (rg 12 0x08) = true
    ∧ bit (reg (regsOf [(pwrSt, 0x80000000#32)] upCtl) pwrSt) 31 = true := by
  decide +kernel

/-- SLEEP entry in a step, and a device asleep or waking. -/
def entering (step : Nat) (wake : Option (Nat × Nat)) (c : Ctl) : Ctl := { c with pwr := { c.pwr with entry := some ⟨step, 0, wake, []⟩ } }
def phase (p : Phase) (c : Ctl) : Ctl := { c with dev := { c.dev with run := p } }

theorem witness_SleepIsEnteredAndLeft :
    hubTakes upCtl .mp pwrCtrl = true ∧ migZone upCtl = none ∧ migZone copying.ctl = some 15 ∧ (∀ y, y < 16 → (chvOf upCtl y).sy = [])
    ∧ portsDrained (entering 1 none upCtl) = true ∧ portsDrained (entering 1 (some (0, 0)) upCtl) = true
    ∧ (entering 5 none upCtl).pwr.entry = some ⟨5, 0, none, []⟩
    ∧ drainPort (entering 1 none reading.ctl) = some 3 ∧ 0 + bits (reg reading.ctl pwrSleepCfg) 0 12 ≤ reading.ctl.rtc
    ∧ wakeSource 0 129 = true ∧ wakeSource 3 6 = true
    ∧ bit (reg (phase .asleep (regsOf [(pwrAlarmHi, 0x80000000#32)] upCtl)) pwrAlarmHi) 31 = true
    ∧ alarmAt (phase .asleep (regsOf [(pwrAlarmHi, 0x80000000#32)] upCtl)) ≤ upCtl.rtc
    ∧ (phase .waking { upCtl with pwr := { upCtl.pwr with saved := some (savedNow upCtl), saveCrc := some 5#32 } }).pwr.saved = some (savedNow upCtl)
    ∧ (phase .waking { upCtl with pwr := { upCtl.pwr with saved := some (savedNow upCtl), saveCrc := some 5#32 } }).pwr.saveCrc = some 5#32
    ∧ railsSteady (phase .waking upCtl) = true ∧ anyLost (phase .waking upCtl) = false ∧ upCtl.pwr.saveCrc ≠ some 5#32
    ∧ upCtl.dev.needPower = false ∧ (phase .waking upCtl).dev.run = .waking ∧ 665 ≤ upCtl.pin.mvA ∧ 635 ≤ upCtl.pin.mvB
    ∧ upCtl.pwr.bank.any (fun p => p.2.lost) = false := by
  decide +kernel

/-- A queue that has still to fetch, a message that Acien has still to answer, and bank 15 of slice 63's physical slice 70 in RET. -/
def queuing : Ctl := regsOf [(movQctrl 71, 1#32), (movQtail 71, 1#32)] upCtl
def messaged : Ctl := setChan 17 { chanOf upCtl 17 with full := true } upCtl
def sleepy : Ctl := setBank 70 15 { Bank.rest with st := .ret } upCtl

theorem witness_SleepStepsEnd :
    migZone copying.ctl = some 15 ∧ quiesceRefuser upCtl = none ∧ quiesceRefuser queuing = some (1, 71) ∧ upCtl.port.ops = [] ∧ upCtl.port.parity = []
    ∧ paritying.ctl.port.parity ≠ [] ∧ quiesceRefuser paritying.ctl = none
    ∧ acienBusy upCtl = false ∧ acienBusy messaged = true ∧ saveReady upCtl = true ∧ saveReady sleepy = false
    ∧ (∃ l ∈ saveLocs, (bankOf sleepy (redirect sleepy l.s l.x) l.b).st = .ret) ∧ portsDrained (entering 1 none reading.ctl) = false
    ∧ (∀ z, z < 16 → (chvOf upCtl z).sy = []) ∧ upCtl.pwr.moves = [] ∧ upCtl.lnd.inbox = [] ∧ upCtl.part.tiers ≤ 3
    ∧ keptBank upCtl (142, 47) = false ∧ (bankOf upCtl 142 47).st = .on ∧ keptBank upCtl (0, 13) = true
    ∧ wakeCore 0 129 = some 15 ∧ isolated upCtl 15 = false ∧ isolated (regsOf [(brlIsol, 0x8000#32)] upCtl) 15 = true := by
  decide +kernel

theorem witness_SleepStepsEnd_banks : (142, 47) ∈ onBanks upCtl ∧ (142, 47) ∈ groupBanks upCtl := by
  unfold onBanks groupBanks usedBanks
  exact ⟨List.mem_filter.2 ⟨List.mem_flatMap.2 ⟨142, by decide +kernel, by decide +kernel⟩, by decide +kernel⟩,
    List.mem_filter.2 ⟨List.mem_flatMap.2 ⟨142, by decide +kernel, by decide +kernel⟩, by decide +kernel⟩⟩

theorem witness_SleepExitRestores :
    upCtl.port.reqs = [] ∧ upCtl.pwr.warnDue = [] ∧ (∀ d, d < 20 → domReleased upCtl d = true ∧ holdOn (restore (savedNow upCtl) upCtl) d = false)
    ∧ anyLost (phase .waking sleepy) = false ∧ anyLost (setBank 70 15 { Bank.rest with lost := true } upCtl) = true := by
  decide +kernel

theorem witness_SuppliesAreWatched :
    railWarn .vddA - 1 < railWarn .vddA ∧ railWarn .vddA ≤ railMv upCtl .vddA ∧ railWarn .vddB ≤ railMv upCtl .vddB
    ∧ upCtl.pwr.okSinceB + bits (reg upCtl pwrSupCfg) 0 8 ≤ upCtl.rtc ∧ upCtl.dev.run ≠ .island ∧ (142, 47) ∈ usedBanks upCtl
    ∧ (bankOf (banked { Bank.rest with st := .ret }) 142 47).st = .ret
    ∧ (phase .asleep upCtl).dev.run = .asleep ∧ upCtl.dev.resetReq = none ∧ upCtl.pwr.bank.any (fun p => p.2.lost) = false
    ∧ (phase .reset { upCtl with dev := { upCtl.dev with needPower := true } }).dev.needPower = true ∧ upCtl.dev.load = .powerOn
    ∧ upCtl.pin.rstN = true ∧ { upCtl.pin with rstN := false }.rstN = false := by
  decide +kernel

theorem witness_LovageKeepsItsEnvelope :
    upCtl.dev.run = .running ∧ bit (reg upCtl lovCfg) 28 = true ∧ upCtl.dev.run ≠ .asleep
    ∧ countedMw (regsOf [(lovCfg, 0#32)] upCtl) ≤ limitMw (regsOf [(lovCfg, 0#32)] upCtl)
    ∧ heldNow ⟨0, 0, 0, 5, 0⟩ { upCtl with lov := { upCtl.lov with share := [(3, 0)] } } = [3] ∧ tabGet 0 upCtl.lov.spent 3 = 0 := by
  decide +kernel

/-- The network is reached, with the segments of slice 143 in it. -/
def probed (c : Ctl) : Ctl := { c with tapIr := 0x10, tap := { c.tap with zones := [15], slices := [143] } }

/-! Resets and loads. -/

theorem witness_DeviceResetsKeepTheirState :
    (phase .asleep upCtl).dev.run = .asleep ∧ 665 ≤ upCtl.pin.mvA ∧ 635 ≤ upCtl.pin.mvB ∧ (probed upCtl).tapIr = 0x10
    ∧ tabSorted (setLane 143 2 { Lane.rest with failed := [17] } upCtl).prt.lane = true
    ∧ resetReady { up with ctl := { upCtl with out := { upCtl.out with fatal := true } } } = true
    ∧ resetReady { up with ctl := { upCtl with out := { upCtl.out with fatal := true }, dev := { upCtl.dev with own := [(taCrash, ramp, 1)] } } } = false
    ∧ resetReady (of (fenceAll reading.ctl)) = false
    ∧ (isPmKey (physKey 71 15 0) || isBootKey (physKey 8 13 0)) = true
    ∧ (isPmKey (physKey 72 15 0) || isBootKey (physKey 9 13 0)) = false ∧ upCtl.pin.rstN = true ∧ upCtl.pin.devHold = false ∧ railBor .vddB - 1 < railBor .vddB
    ∧ upCtl.dev.needPower = false ∧ { upCtl.dev with resetReq := some 0 }.resetReq = some 0 ∧ 0 + 1000 ≤ upCtl.rtc ∧ upCtl.pin.rstReq = false
    ∧ upCtl.out.fatal = false ∧ upCtl.dev.resetReq = none := by
  decide +kernel

def held : Ctl := phase .reset { upCtl with pin := { upCtl.pin with devHold := true } }

theorem witness_TheIslandResetsEverything :
    (phase .island upCtl).dev.run = .island ∧ held.pin.devHold = true ∧ held.dev.run = .reset ∧ held.dev.needPower = false ∧ held.pin.rstN = true
    ∧ 665 ≤ upCtl.pin.mvA ∧ 635 ≤ upCtl.pin.mvB ∧ upCtl.dev.load = .powerOn := by
  decide +kernel

/-- Domain 19 fenced by its hold; core 15 in reset; core 0 fenced without an acknowledge. -/
def fenced19 : Ctl := setDom 19 (.fenced 0) (regsOf [(brlRstHold, 0x80000#32)] upCtl)
def inReset15 : Ctl := setDom 15 .inReset upCtl
def escaped : Ctl := { regsOf [(brlIsol, 0x8000#32)] upCtl with pin := { upCtl.pin with rstAck := [15] } }

theorem witness_DomainsFenceDrainAndRelease :
    domReleased upCtl 15 = true ∧ domFenced fenced19 19 = true ∧ devFenced fenced19 = false ∧ drained fenced19 19 = true
    ∧ holdOn fenced19 19 = true ∧ domInReset inReset15 15 = true ∧ bit (reg inReset15 brlRstHold) 15 = false ∧ isolated inReset15 15 = false
    ∧ inReset15.pin.rstAck.contains 15 = false ∧ inReset15.pin.zrst.contains 15 = false
    ∧ domOf (setDom 0 (.fenced 0) upCtl) 0 = .fenced 0 ∧ 0 + bits (reg upCtl brlCfg) 0 16 ≤ upCtl.rtc ∧ edgeHeld upCtl (.esc 0) = false
    ∧ hubTakes escaped .mp brlIsol = true ∧ bit 0x8000#32 15 = true ∧ isolated escaped 15 = true ∧ escaped.pin.rstAck.contains 15 = true := by
  decide +kernel

theorem witness_DomainsFenceDrainAndRelease_register :
    hubTakes upCtl .mp brlRstHold = true ∧ bit 0x88000#32 19 = true ∧ domReleased upCtl 19 = true ∧ bit 0x88000#32 15 = true
    ∧ bit 0#32 19 = false ∧ domInReset (setDom 19 .inReset upCtl) 19 = true ∧ devFenced (setDom 19 .inReset upCtl) = false
    ∧ bit 0#32 15 = false ∧ inReset15.pin.zrst.contains 15 = false := by
  decide +kernel

theorem witness_FatalConditionsAndAborts :
    baseLogicOn upCtl = true ∧ domInReset upCtl 18 = false ∧ baseLogicOn (phase .noImage upCtl) = true ∧ (phase .noImage upCtl).out.fatal = false
    ∧ { upCtl with dev := { upCtl.dev with seen := [0] } }.dev.seen.contains upCtl.pin.devId = true
    ∧ upCtl.srl.dead = false ∧ hubTakes upCtl .mp (rg 0 0x50) = true ∧ upCtl.dev.seen.contains upCtl.pin.devId = false ∧ linkOn upCtl 11 = true
    ∧ upCtl.dev.seen.contains (65535 % 65536) = false ∧ upCtl.dev.seen.length < 16 ∧ bits (reg upCtl brlCfg) 16 4 ≠ 0
    ∧ { upCtl with dev := { upCtl.dev with seen := [7] } }.dev.seen.contains (7 % 65536) = true ∧ winBound bound 255 < 832
    ∧ edgeHeld upCtl (.abortOut 11 0 3) = false ∧ upCtl.out.vague = false := by
  decide +kernel

/-- A slot of one NOTE of 16 bytes, its key programmed; and an empty slot. -/
def noteSlot : Slot := ⟨true, 0x494C5242, 1, 1, 384, 7, 0, 5, true, [.note 16]⟩
def noSlot : Slot := ⟨false, 0, 0, 0, 0, 0, 0, 0, false, []⟩
def flash : Flash := ⟨true, true, none, none⟩
def loadingCtl : Ctl := { Ctl.reset with fuse := { Ctl.reset.fuse with keyHash := 5 } }

/-- Slice 127's recorded migration has been repeated. -/
def repeated (c : Ctl) : Ctl := { c with prt := { c.prt with retLog := [127], moved := [(127, 143)] } }

/-- A slot with a REG section of two registers and one region, and a BOOT section of eight bytes in the middle of a line. -/
def fullSlot : Slot := ⟨true, 0x494C5242, 1, 1, 448, 7, 0, 5, true,
  [.reg [(chvCfg, 0x10102020#32), (lovLaunch, 0x01000101#32), (rgnEnt 1, 0x10000#32)], .boot 0x40020 [1, 2, 3, 4, 5, 6, 7, 8], .note 16]⟩

theorem witness_LoadsStartTheDevice_applied :
    slotCode loadingCtl flash fullSlot = 0 ∧ ownAvail (of loadingCtl) (bootTas fullSlot ++ bootTas noSlot) = .ready
    ∧ lastEntry fullSlot chvCfg 0x10102020#32 ∧ lastEntry fullSlot (rgnEnt 1) 0x10000#32 ∧ locked loadingCtl = false
    ∧ (fieldsOf loadingCtl.part chvCfg).all (fun f => decide (f.acc = .rwl) && f.legal (bits 0x10102020#32 f.lo f.w)) = true
    ∧ bootOf fullSlot = [(0x40020, [1, 2, 3, 4, 5, 6, 7, 8])] ∧ (bootKeys loadingCtl fullSlot).Nodup
    ∧ (place loadingCtl (taBoot + (0x40020 + 7) / 64 * 64)).isSome = true ∧ loadingCtl.pwr.keepKept = false ∧ (of loadingCtl).store.blur = none := by
  unfold lastEntry
  decide +kernel

theorem witness_LoadsStartTheDevice :
    anyRetrain loadingCtl = false ∧ canLoad loadingCtl = true ∧ slotCode loadingCtl flash noteSlot = 0 ∧ slotCode loadingCtl flash noSlot = 1
    ∧ slotCode Ctl.reset flash noteSlot = 6 ∧ slotCode loadingCtl ⟨true, false, none, none⟩ noteSlot = 1
    ∧ acienRuns (phase .starting upCtl) = true ∧ (phase .starting upCtl).prt.mig.all (fun p => !p.2.active) = true
    ∧ (phase .starting upCtl).prt.retLog = [] ∧ committed (repeated upCtl) 127 ≠ 9 * (127 / 8) + 127 % 8 ∧ (repeated upCtl).prt.retLog = [127] ∧ linkOn upCtl 0 = true := by
  decide +kernel

/-! Registers, counters, test access, steps, links. -/

theorem witness_RegisterAccessesAct :
    takesWrite up .mp chvCfg ∧ takesWrite up .acien (rg 13 0) ∧ fieldsOf upCtl.part (rg 13 0xFFFC) = [] ∧ locked upCtl = true
    ∧ ([chvCfg, rg 13 0, rg 13 0xFFFC, brlCfg, rg 1 0x10, srlCfg, rg 3 0x200, fenSeed 15, rg 7 0, rg 8 0x20, movQ 71 8, lndW 255 0, rg 10 0x10, prtEv,
        prtPolicy, pwrEv, pwrIdleUs, rg 12 0x114].all (plainReg upCtl .mp)) = true
    ∧ plainReg upCtl .acien (rg 11 0x40) = true ∧ ([brlCtrl, rg 3 8, movQtail 0, lndWctrl 0, pwrCtrl, rg 15 0].all (plainReg upCtl .mp)) = false
    ∧ hubTakes upCtl .mp (rg 15 0) = true
    ∧ launchOn upCtl = true ∧ launchOn (regsOf [(brlUnitEn, 0#32)] upCtl) = false
    ∧ hubTakes upCtl .mp lovLaunch = true ∧ hubTakes upCtl .mp brlCtrl = true ∧ hubTakes upCtl .mp (rg 14 (0x108 + 16 * 63)) = true := by
  unfold takesWrite
  decide +kernel

theorem witness_InterruptsAndCountersAct :
    hubTakes upCtl .mp (rg 15 0x0C) = true ∧ hubTakes upCtl .acien (rg 14 0) = true ∧ bit 3#32 2 = false
    ∧ hubTakes upCtl .mp (rg 14 (0x100 + 16 * 63 + 4)) = true ∧ srcLegal (bits 0x8000009E#32 0 8) = true := by
  decide +kernel

theorem witness_TestAccessActs :
    slept upCtl = false ∧ slept (phase .waking upCtl) = true ∧ reached (phase .asleep (probed upCtl)) = false ∧ (probed upCtl).tapIr = 0x10
    ∧ reached upCtl = false ∧ reached (probed upCtl) = true ∧ sliceReached (probed upCtl) 143 = true ∧ sliceReached (probed upCtl) 142 = false
    ∧ (probed upCtl).pin.devHold = false ∧ (probed held).pin.devHold = true ∧ (of (probed held)).store.blur = none
    ∧ entryFits upCtl (.row 47 2047) = true ∧ TapSt.exit1Ir.next true = .updateIr := by
  decide +kernel

/-- R525, R527: an instruction shifted in bit by bit, lowest bit first, selects the IEEE 1687 network; its capture puts 0b0000_0001 there. -/
def scanIr : State :=
  let tck (tms tdi : Bool) (s : State) : State := after (.tapInstruction (.tck tms tdi)) s
  let start := tck false false (tck false false (tck true false (tck true false (tck false false (after (.tapInstruction .reset) up)))))
  let bits8 := [false, false, false, false, true, false, false].foldl (fun s b => tck false b s) start
  tck true false (tck true false bits8)
theorem test_tap_scan : tapSelects up.ctl = .idcode ∧ tapSelects scanIr.ctl = .ijtag ∧ scanIr.ctl.tap.st = .updateIr := by decide +kernel

theorem witness_StepRunsTheFront :
    { up with pending := [.brlRstReqFall] }.pending = [Instr.brlRstReqFall] ∧ up.pending = [] := by
  decide +kernel

theorem witness_StepKeepsTheMemoryForm : fetching.store.wf = true ∧ fetching.store.cells.length = 64 ∧ ∃ t, step fetching = .next t := by
  refine ⟨by decide +kernel, by decide +kernel, ?_⟩
  have h : fetching.pending = [] := by decide +kernel
  exact ⟨_, by unfold step; rw [h]⟩

/-- A SEND on link 11 whose first two lines have been read, with a credit; and an open window for an inbound line. -/
def sending : Run := { runOf [10 + 11 * 2 ^ 40, srcTa, 0, 4, 0, 0, 0, 0] with
  buf := [(rKey 0, resData ramp false), (rKey 1, resData ramp false)] }
def linked : Ctl := { moving sending with mov := { (moving sending).mov with lpCredit := [(11, 1)], lpGiven := [(11, 64)] } }
def inbound : Ctl := { landing none with mov := { upCtl.mov with lpGiven := [(0, 1), (11, 64)] } }

theorem witness_LinksCarryLines :
    (queueOf linked 5).run = some sending ∧ sending.op = 10 ∧ sending.force = none ∧ sending.stop = false
    ∧ nbits (sending.word 0) 40 4 = 11 ∧ 2 * sending.beats + 1 < sending.total linked ∧ tabGet 0 linked.mov.lpCredit 11 = 1
    ∧ tabFind sending.buf (rKey (2 * sending.beats)) = some (resData ramp false)
    ∧ tabFind sending.buf (rKey (2 * sending.beats + 1)) = some (resData ramp false)
    ∧ edgeHeld linked (.lpOut 11 0 0 0 [true, true] [false, false] [ramp, ramp]) = false ∧ linked.out.vague = false
    ∧ linkOn inbound 11 = true ∧ bit (reg inbound pwrSt) 31 = false ∧ tabGet 0 inbound.mov.lpGiven 11 ≠ 0
    ∧ inbound.dev.run = .running ∧ (∀ y ∈ inbound.lnd.land, y.id < inbound.lnd.next ∧ y.wait = none)
    ∧ inbound.pwr.entry = none ∧ inbound.lnd.inbox = []
    ∧ lovFull inbound 4 (beatEnergy inbound ⟨11, 255, 9, 64, [true, false], [true, false], [ramp]⟩) = false ∧ regionBusy inbound (winBase inbound 255 + 64) = false
    ∧ regionBusy { inbound with region := some ⟨0, 0x10000#32, 0⟩ } taSpread = true ∧ (winOf inbound 255).isOpen = true
    ∧ (winOf inbound 255).gen = 9 ∧ 64 + 64 ≤ winSize inbound 255 ∧ addrStatus inbound true (winBase inbound 255 + 64) = none
    ∧ (winOf inbound 255).gen ≠ 8 ∧ domInReset inbound 17 = false := by
  decide +kernel

/-! Ill-formed commands: one for each check of WellFormed.lean, beside a well-formed one of its kind. -/

theorem test_ill_formed :
    ([.read (.ma 16) (rq 0 0 0), .read (.mb 16) (rq 0 0 0), .read (.mc 16) (rq 0 0 0), .read (.vx 16) (rq 0 0 0), .read (.cd 16) (rq 0 0 0),
      .read .hp (rq (2 ^ 36) 0 0), .write .hp (rq 0 256 0), .zmap .hp (rq 0 0 256), .write .hp { rq 0 0 0 with qos := 16 },
      .write .hp { rq 0 0 0 with tag := 256 }, .write .hp { rq 0 0 0 with view := 4 }, .write .hp { rq 0 0 0 with emask := [2 ^ 32] },
      .sliceLineAccess 144 false [], .sliceLineAccess 0 false [576], .tagGroupReload 0 48 0 false, .tagGroupReload 0 0 256 false,
      .holdCutoff 4, .chervilRegister 16, .wcAgeFlush 0 (2 ^ 36), .kEnd 0 256, .vxInvDone 0 16, .rgnEntWrite .mp 8192 0, .movQtailWrite .mp 72 0,
      .queueDoorbell 0 4 0 0, .queueDoorbell 0 0 65536 0, .recordFetch 72 true 0, .recordFetch 0 true 1024, .moverTake 24, .lpOutBeat 12 0,
      .lpOutCredit 12, .stackReadBeat (.sp 20) 0 0 ⟨0, true, ramp⟩ false, .stackReadBeat .hpo 1024 0 ⟨0, true, ramp⟩ false, .stackReadBeat .hpo 0 4 ⟨0, true, ramp⟩ false,
      .stackReadBeat .hpo 0 0 ⟨0, true, []⟩ false, .stackReadBeat .hpo 0 0 ⟨32, true, ramp⟩ false, .stackHotRise 0 256, .lpInBeat 0 256 0 0 [] [] [], .lpInBeat 0 0 65536 0 [] [] [],
      .lpInBeat 0 0 0 (2 ^ 32) [] [] [], .lpInBeat 0 0 0 0 [] [] [[]], .windowOpen .mp 256 0, .syArrive 16 (sy 0), .syArrive 0 (sy 1024),
      .syWait 0 { sy 0 with ph := 4 }, .syWait 0 { sy 0 with ctx := 64 }, .syWait 0 { sy 0 with seq := 256 }, .barrierArm .mp 832 0,
      .lckClaimRead .mp false 64, .mailboxMessage true 18 0, .laneCrcError 0 3 0, .laneCrcError 0 0 18, .fullRetrainDone 0 0 [18],
      .autoMigrate 128, .migrationSwap 16, .pwrGrpWrite .mp 16 0, .bankWake 0 48, .sleepWakeEvent 4 0, .sleepWakeEvent 0 (2 ^ 26), .lovPlan 1024,
      .powerOn ⟨65536, true⟩, .configLoad ⟨0, flash⟩ { noSlot with format := 65536 } noSlot,
      .configLoad ⟨0, { flash with enter4 := some 256 }⟩ noSlot noSlot, .domainFence (.zrst 16), .domainDrained 21,
      .fatalCondition (.committed 128), .fatalCondition (.migration 16), .abortMarker 0 0 16, .evcSelectWrite .mp 64 false 0,
      .registerWrite .mp (2 ^ 36) 0, .bist [⟨0, 48, .pass, [], []⟩], .bist [⟨0, 0, .fail, [2048], []⟩], .repair 0 [.row 0 2048],
      .repair 0 [.column 0 8 0], .repair 0 [.lane 3 0], .bondTest 3 [], .tapInstruction (.load 256)] : List Instr).all
        (fun i => !wellFormed i) = true := by
  decide +kernel

theorem test_well_formed :
    ([.read (.ma 15) (rq (2 ^ 36 - 64) 255 255), .write .hp { rq 0 0 0 with emask := [2 ^ 32 - 1] }, .sliceLineAccess 143 true [575],
      .tagGroupReload 143 47 255 true, .queueDoorbell 15 3 65535 255, .recordFetch 71 true 1023, .stackReadBeat (.sp 19) 1023 3 ⟨31, true, ramp⟩ true,
      .lpInBeat 11 255 65535 (2 ^ 32 - 64) [true, true] [false, false] [ramp, ramp], .syWait 15 ⟨1023, true, 3, 63, 255⟩, .barrierArm .acien 831 0,
      .mailboxMessage false 17 0, .laneCrcError 143 2 17, .domainFence (.zrst 15), .fatalCondition (.migration 15),
      .repair 143 [.row 47 2047, .column 47 7 575, .lane 2 17], .tapInstruction (.load 255)] : List Instr).all wellFormed = true := by
  decide +kernel

/-! Examples that the spec works out. -/

/-- The worked decompositions of chapter 2: a spread and a near address. -/
theorem test_worked_decompositions :
    place upCtl 0x123456780 = some ⟨5, 1, 3009⟩ ∧ redirect upCtl 5 (Loc.x ⟨5, 1, 3009⟩) = 5
    ∧ place upCtl 0x54ABCDE40 = some ⟨43, 24, 15298⟩ ∧ redirect upCtl 43 (Loc.x ⟨43, 24, 15298⟩) = 48
    ∧ taOf upCtl ⟨5, 1, 3009⟩ = some 0x123456780 ∧ taOf upCtl ⟨43, 24, 15298⟩ = some 0x54ABCDE40 := by
  decide +kernel

/-- Table 3-6: three reads of MA3 and the ticks reserved for them, the third one past a conflict. -/
def ma3 (c : Ctl) (tick len ta : Nat) : Ctl := (after (.read (.ma 3) (rq ta len 0)) (of (setGrp 0 { idleGrp with tick := tick } c))).ctl
theorem test_fixed_lag_example :
    (ma3 (ma3 (ma3 upCtl 1000 31 0x4C0000000) 1001 15 taSpread) 1049 15 0x4C0000000).port.reqs.map Req.due
      = [some 1064, some 1113, some 1114] := by
  decide +kernel

/-- The worked example of chapter 6: where the side entry of the tile lies, and what quantisation stores for it (Table 6-7). -/
def tile : List Line :=
  let elems (l : List Nat) : Line := (l ++ List.replicate (32 - l.length) 0).flatMap (leBytes 2)
  [elems [0x4040, 0x3F33, 0xBF8D], elems [], elems [0x4220], elems [0x7FC0, 0x3F80]]
def packed : Quant := quantUnit (geo 0x84) [] (tile.flatMap (viewValues false))
theorem test_mxfp4_tile :
    sideOf (regsOf [(rgnEnt 5, 0x840000#32)] upCtl) 0x100A048C0 = some (0x100BC70C0, 0, 8)
    ∧ packed.pay.take 2 = [0x37, 0x0C] ∧ packed.pay.getD 32 0 = 0x06 ∧ packed.pay.drop 48 = List.replicate 16 0xFF
    ∧ packed.entry = [0x7E, 0x00, 0x82, 0xFF, 0, 0, 0, 0] := by
  decide +kernel

/-- Table 9-5: the arrival that completes phase 0 takes the count of the next one; a named arrival for a completed phase freezes. -/
def bar436 (ph cur nxt : Nat) : Ctl := setBar 436 ⟨3, ph, cur, nxt, false, .none, 0x3FF, false, false⟩ upCtl
theorem test_barrier_completes :
    (let b := barOf (barArrive 436 5 false 0 (bar436 0 2 1)).2 436; (b.ph, b.cur, b.nxt, b.frozen)) = (1, 1, 0, false) := by
  decide +kernel
theorem test_barrier_overflow :
    (barArriveWait 436 9 12 true 1 (bar436 2 0 0)).1 = .broken
    ∧ (let b := barOf (barArriveWait 436 9 12 true 1 (bar436 2 0 0)).2 436; (b.frozen, b.cause, b.last)) = (true, .overflow, 9) := by
  decide +kernel

/-- Table 11-3: PWR_SLEEP_LAST of an entry that MP aborts at step 3. -/
theorem test_sleep_aborted :
    let v := reg (sleepLast 1 3 3 5 upCtl) pwrSleepLast
    (bits v 31 1, bits v 28 3, bits v 26 2, bits v 0 26) = (1, 3, 3, 5) := by
  decide +kernel

/-- Words of the layout descriptor table (Table 13-15), by word index. -/
def ldtUp : List Nat := ldtWith Ctl.reset 0
theorem test_ldt_words :
    [0x000, 0x004, 0x008, 0x00C, 0x014, 0x020, 0x024, 0x02C, 0x104, 0x194, 0x198, 0x19C, 0x1A0, 0x1E8, 0x1EC, 0x1F0, 0x478, 0x4B0, 0x4B4, 0x4BC,
      0x4C0, 0x4E8, 0x508, 0x52C, 0x530, 0x548].map (fun o => ldtUp.getD (o / 4) 0)
    = [0x444C5242, 0x00200001, 0x00040001, 0x00000564, 0x0000002A, 0x000C0101, 0x02121000, 0x000C0101, 0x00900103, 0x00540104, 0x00080808,
      0x00000C00, 0x00A800C0, 0x01D00105, 0x00000072, 0x00207000, 0x001C0108, 0x001C0108, 0x02A86902, 0x01E00104, 0x04AA0528, 0x00200109,
      0x0024010A, 0x001C010B, 0x002800FA, 0x001C010C] := by
  decide +kernel

/-- The check value of the CRC with the parameters of R485: that of the bytes "123456789". -/
theorem test_crc32 : crc32 [0x31, 0x32, 0x33, 0x34, 0x35, 0x36, 0x37, 0x38, 0x39] = 0xCBF43926 := by decide +kernel

/-! One step of a few commands. -/

theorem test_store_then_read :
    goes (.sliceLineAccess 0 false []) storing (fun t => (t.store.data 0).take 3 == [1, 2, 3] && !t.store.isZero 0) = true := by
  decide +kernel

/-- Two queues wait at an arbiter: the higher class passes first, and what stands behind another of its own queue waits for it (R111, R113). -/
theorem test_arbiter_grants_by_qos :
    let on (n qos p : Nat) : LineOp := { opAt (.wc 0 []) p .read with qos := qos, serial := n, here := false }
    (arbitrate upCtl LineOp.ta [on 0 3 1, on 1 5 2, on 2 15 1]).map LineOp.serial = [1, 0, 2] := by
  decide +kernel

/-- Flushes of two zones meet at the spine's link into zone 0: the one of the higher class reaches slice 0 first (R30, R111). -/
theorem test_spine_link_grants_by_qos :
    let on (n qos z : Nat) : LineOp := { opAt (.wc z []) taSpread .read with qos := qos, serial := n, here := false }
    (toSlices { upCtl with port := { upCtl.port with serial := 7, ops := [on 0 3 0, on 1 5 1] } }).port.ops.map
      (fun o => (o.serial, o.came, o.here)) = [(1, 7, true), (0, 8, true)] := by
  decide +kernel

theorem test_poison_reads_poison :
    goes (.sliceLineAccess 0 false []) { fetching with store := Store.poison false 0 Store.empty }
      (fun t => t.ctl.port.reqs.any (fun r => (tabFind r.res 0).any (fun x => decide (x.st = .poison)))) = true := by
  decide +kernel

theorem test_two_flips_poison_a_standard_line :
    goes (.sliceLineAccess 0 false [0, 1]) fetching (fun t => t.store.isPoison 0 && bit (reg t.ctl prtEv) 0
      && decide (reg t.ctl prtUe = 1) && decide (t.ctl.prt.cap.length = 1)) = true := by
  decide +kernel

theorem test_fill_issues_a_write :
    goes (.fill 0 3) (of (moving fillRun)) (fun t => t.ctl.port.ops.any (fun o => decide (o.ta = dstTa + 192)
      && (match o.acc with | .write d _ _ => decide (d.getD 0 0 = 7 ∧ d.getD 1 0 = 0 ∧ d.getD 8 0 = 7) | _ => false))) = true := by
  decide +kernel

theorem test_reset_load_ready :
    goes (.configLoad ⟨7, flash⟩ noteSlot noSlot) ⟨Store.empty, loadingCtl, []⟩ (fun t => decide (t.ctl.dev.run = .starting) && locked t.ctl
      && goes .acienReady t (fun u => u.ctl.out.ready && rqReady u.ctl .hp)) = true := by
  decide +kernel

theorem test_lock_write_is_ignored :
    goes (.registerWrite .mp (regBase + chvCfg) 0#32) up (fun t => decide (reg t.ctl chvCfg = 0x20203010#32)) = true
    ∧ goes (.registerWrite .mp (regBase + chvCfg) 0x10102020#32) (of { upCtl with regs := [] })
      (fun t => decide (reg t.ctl chvCfg = 0x10102020#32)) = true := by
  decide +kernel

/-- R505: a snapshot takes the counts as they stand at the end of its port cycle, with the cycle's own event of source 0x0E. -/
theorem test_snapshot_at_the_end_of_the_cycle :
    goes (.evcSnap .mp 3#32) (of (setCtr 5 ⟨0x8000000E#32, 0xF000FFFF#32, 41, 0, 0⟩ upCtl)) (fun t =>
      decide ((ctrOf t.ctl 5).snap = 0 ∧ (ctrOf (cycleEnd t.ctl) 5).snap = 42)) = true := by
  decide +kernel

/-- R501: a cause raised in the port cycle of the write that clears it stays at 1, and one of an earlier cycle is cleared. -/
theorem test_cause_of_the_same_cycle_stays :
    goes (.registerWrite .mp (regBase + rg 15 0) 0x60#32) (of (raiseInt 5 { upCtl with int := { upCtl.int with stat := 0x40#32 } }))
      (fun t => decide (t.ctl.int.stat = 0x20#32)) = true := by
  decide +kernel

end Sys2Proof.Tests
end

section
/-! What the port rings and the landing unit leave alone when they go on: register words, the region change under way, and the device's phase
with the access that the hub holds. -/

namespace Sys2Proof.Machine

/-- `d` has the register words of `c`, but those at the offsets in `os`, its region change, and its device state with the hub. -/
structure KeepsHub (os : List Nat) (c d : Ctl) : Prop where
  regs : ∀ o, o ∉ os → reg d o = reg c o
  region : d.region = c.region
  dev : d.dev = c.dev

namespace KeepsHub

variable {os : List Nat} {c d e : Ctl}

theorem refl (os : List Nat) (c : Ctl) : KeepsHub os c c := ⟨fun _ _ => rfl, rfl, rfl⟩

/-- One more operation that writes none of the four fields. -/
theorem step (h : KeepsHub os c d) (hf : e.part = d.part ∧ e.regs = d.regs ∧ e.region = d.region ∧ e.dev = d.dev) : KeepsHub os c e := by
  obtain ⟨hp, hr, hg, hd⟩ := hf
  exact ⟨fun o ho => (reg_congr d e o hp hr).trans (h.regs o ho), hg.trans h.region, hd.trans h.dev⟩

theorem mono {ps : List Nat} (h : KeepsHub os c d) (hs : ∀ o ∈ os, o ∈ ps) : KeepsHub ps c d :=
  ⟨fun o ho => h.regs o (fun hm => ho (hs o hm)), h.region, h.dev⟩

theorem trans (h : KeepsHub os c d) (g : KeepsHub os d e) : KeepsHub os c e :=
  ⟨fun o ho => (g.regs o ho).trans (h.regs o ho), g.region.trans h.region, g.dev.trans h.dev⟩

theorem foldl {α : Type} {f : Ctl → α → Ctl} (hf : ∀ d x, KeepsHub os c d → KeepsHub os c (f d x)) (l : List α) :
    ∀ {d}, KeepsHub os c d → KeepsHub os c (l.foldl f d) := by
  induction l with
  | nil => exact id
  | cons x r ih => exact fun h => ih (hf _ x h)

/-! The shared operations. -/

theorem emit (v : Ev) (h : KeepsHub os c d) : KeepsHub os c (emit v d) := h.step (by simp)
theorem token (k n : Nat) (h : KeepsHub os c d) : KeepsHub os c (token k n d) := h.step (by simp)
theorem setChv (z : Nat) (v : Chv) (h : KeepsHub os c d) : KeepsHub os c (setChv z v d) := h.step (by simp)
theorem pushOp (w : Owner) (ta : Nat) (acc : Acc) (priv : Bool) (qos : Nat) (h : KeepsHub os c d) :
    KeepsHub os c (pushOp w ta acc priv qos d) := h.step (by simp)
theorem setReqRes (id i : Nat) (res : LineRes) (h : KeepsHub os c d) : KeepsHub os c (setReqRes id i res d) := h.step (by simp)
theorem setReq (r : Req) (h : KeepsHub os c d) : KeepsHub os c (setReq r d) := h.step ⟨rfl, rfl, rfl, rfl⟩
theorem drive (x : Edge) (h : KeepsHub os c d) : KeepsHub os c (drive x d) := h.step (by simp)
theorem setBank (p b : Nat) (v : Bank) (h : KeepsHub os c d) : KeepsHub os c (setBank p b v d) := h.step (by simp)
theorem setWin (w : Nat) (v : Win) (h : KeepsHub os c d) : KeepsHub os c (setWin w v d) := h.step (by simp)
theorem lovSpend (i k : Nat) (h : KeepsHub os c d) : KeepsHub os c (lovSpend i k d) := h.step (by simp)
theorem lovTurnedAway (i : Nat) (h : KeepsHub os c d) : KeepsHub os c (lovTurnedAway i d) := h.step (by simp)
theorem modRun (q : Nat) (f : Run → Run) (h : KeepsHub os c d) : KeepsHub os c (modRun q f d) := h.step (by simp)

/-! The write-combining buffers. -/

theorem flushEntry (z trigger : Nat) (x : WcEntry) (h : KeepsHub os c d) : KeepsHub os c (flushEntry z trigger x d) :=
  ((h.setChv _ _).pushOp _ _ _ _ _).emit _

theorem flushWhere (z trigger : Nat) (f : WcEntry → Bool) (h : KeepsHub os c d) : KeepsHub os c (flushWhere z trigger f d) :=
  foldl (fun _ x hd => hd.flushEntry z trigger x) _ h

theorem flushHigh (z : Nat) (h : KeepsHub os c d) : KeepsHub os c (flushHigh z d) := by
  unfold Machine.flushHigh
  dsimp only
  split
  · exact h
  · exact foldl (fun _ x hd => hd.flushEntry z 1 x) _ h

theorem wcEnter (z ta : Nat) (l : Line) (mask : Nat) (m : Nat × Nat) (h : KeepsHub os c d) : KeepsHub os c (wcEnter z ta l mask m d) := by
  unfold Machine.wcEnter
  dsimp only
  split
  · exact h.setChv _ _
  · exact (h.setChv _ _).flushHigh z

theorem flushMets (fuel z : Nat) (entered : Bool) (h : KeepsHub os c d) : KeepsHub os c (flushMets fuel z entered d) := by
  induction fuel generalizing d with
  | zero => exact h
  | succ n ih =>
    unfold Machine.flushMets
    split
    · exact ih (h.flushEntry z 2 _)
    · exact h

theorem flushMet (z : Nat) (entered : Bool) (h : KeepsHub os c d) : KeepsHub os c (flushMet z entered d) := h.flushMets _ z entered

theorem flushPort (p : Port) (h : KeepsHub os c d) : KeepsHub os c (flushPort p d) := by
  unfold Machine.flushPort
  split
  · exact h.flushMet _ true
  · exact h

/-! The release of a request from its port ring (R113). -/

theorem lineNow (r : Req) (i : Nat) (res : LineRes) (h : KeepsHub os c d) : KeepsHub os c (lineNow r i res d) := by
  unfold Machine.lineNow
  dsimp only
  split
  · exact (h.setReqRes _ _ _).emit _
  · exact h.setReqRes _ _ _

theorem startRead (r : Req) (i : Nat) (h : KeepsHub os c d) : KeepsHub os c (startRead r d i) := by
  unfold Machine.startRead
  dsimp only
  split
  · exact (h.lineNow _ _ _).emit _
  · split
    · exact h.lineNow _ _ _
    · exact h.pushOp _ _ _ _ _

theorem startZmap (r : Req) (i : Nat) (h : KeepsHub os c d) : KeepsHub os c (startZmap r d i) := by
  unfold Machine.startZmap
  dsimp only
  split
  · exact (h.lineNow _ _ _).emit _
  · exact (h.lineNow _ _ _).emit _
  · split
    · exact (h.lineNow _ _ _).emit _
    · exact h.pushOp _ _ _ _ _

theorem countViews (src : Nat) (r : Req) (h : KeepsHub os c d) : KeepsHub os c (countViews src r d) := by
  refine foldl (fun d i hd => ?_) _ h
  split
  · exact hd.emit _
  · split
    · exact hd.emit _
    · exact hd.emit _
    · split
      · exact hd
      · exact (hd.emit _).token 5 1

theorem countQuant (z : Nat) (q : Quant) (h : KeepsHub os c d) : KeepsHub os c (countQuant z q d) := ((h.emit _).emit _).emit _

theorem startPack (r : Req) (u : Nat) (h : KeepsHub os c d) : KeepsHub os c (startPack r d u) := by
  unfold Machine.startPack
  extract_lets g v ta views fed bad poison vals xs draws q z c1 mask
  have h1 : KeepsHub os c c1 := by
    unfold c1
    split
    · exact h
    · exact h.countQuant _ _
  split
  · exact h.lineNow _ _ _
  · split
    · exact h.setReqRes _ _ _
    · split
      · exact h.setReqRes _ _ _
      · split
        · exact h1.pushOp _ _ _ _ _
        · split
          · exact h1.lineNow _ _ _
          · exact h1.pushOp _ _ _ _ _

theorem startWrite (r : Req) (i : Nat) (h : KeepsHub os c d) : KeepsHub os c (startWrite r d i) := by
  unfold Machine.startWrite
  dsimp only
  split
  · exact (h.lineNow _ _ _).emit _
  · split
    · exact h.lineNow _ _ _
    · split
      · exact h.pushOp _ _ _ _ _
      · split
        · exact (h.wcEnter _ _ _ _ _).flushMet _ _
        · exact (h.flushWhere _ _ _).pushOp _ _ _ _ _

theorem release (r : Req) (h : KeepsHub os c d) : KeepsHub os c (release r d) := by
  unfold Machine.release
  dsimp only
  split
  · exact h.setReq _
  · split
    · exact foldl (fun _ i hd => hd.startZmap r i) _ (h.setReq _)
    · split
      · exact foldl (fun _ i hd => hd.startRead r i) _ (h.setReq _)
      · exact (foldl (fun _ _ hd => hd.pushOp _ _ _ _ _) _ (h.setReq _)).countViews _ _
    · split
      · exact (foldl (fun _ i hd => hd.startWrite r i) _ (h.setReq _)).flushPort _
      · exact (foldl (fun _ u hd => hd.startPack r u) _ (h.setReq _)).countViews _ _

theorem flushPoisoned (r : Req) (h : KeepsHub os c d) : KeepsHub os c (flushPoisoned r d) := by
  unfold Machine.flushPoisoned
  split
  · exact h
  · split
    · exact (h.flushWhere _ _ _).flushMet _ _
    · exact h

theorem pumpOne (acc : Ctl × List (Port × Option Cause)) (id : Nat) (h : KeepsHub os c acc.1) : KeepsHub os c (pumpOne acc id).1 := by
  unfold Machine.pumpOne
  split
  · exact h
  · split
    · exact h
    · split
      · exact h.setReq _
      · dsimp only
        split
        · exact (h.flushPoisoned _).release _
        · exact (h.flushPoisoned _).setReq _

theorem pump (h : KeepsHub os c d) : KeepsHub os c (pump d) :=
  List.foldlRecOn (motive := fun acc => KeepsHub os c acc.1) _ _ h (fun acc hacc id _ => hacc.pumpOne acc id)

/-! The landing unit, which counts dropped lines (R324). -/

theorem bumpLnd {o : Nat} (ho : o ∈ os) (h : KeepsHub os c d) : KeepsHub os c (bumpLnd o d) := by
  unfold Machine.bumpLnd
  split
  · exact h
  · refine h.trans ⟨fun p hp => ?_, by simp, by simp⟩
    exact (reg_modReg o p _ d).trans (if_neg (ne_of_mem_of_not_mem ho hp))

theorem lateDrop (w : Nat) (hl : lndLate ∈ os) (h : KeepsHub os c d) : KeepsHub os c (lateDrop w d) := by
  unfold Machine.lateDrop
  dsimp only
  split
  · exact (h.bumpLnd hl).emit _
  · exact ((h.setWin _ _).bumpLnd hl).emit _

theorem landLine (link w gen off : Nat) (l : Line) (poison : Bool) (hl : lndLate ∈ os) (ho : lndOor ∈ os) (h : KeepsHub os c d) :
    KeepsHub os c (landLine link w gen off l poison d) := by
  unfold Machine.landLine
  dsimp only
  split
  · exact h.lateDrop w hl
  · split
    · exact (h.bumpLnd ho).emit _
    · exact h.step ⟨rfl, rfl, rfl, rfl⟩

theorem landGo (x : Land) (h : KeepsHub os c d) : KeepsHub os c (landGo x d) := by
  have put (ls : List Land) : KeepsHub os c { d with lnd := { d.lnd with land := ls } } := h.step ⟨rfl, rfl, rfl, rfl⟩
  unfold Machine.landGo
  dsimp only
  split
  · exact h
  · split
    · exact h
    · split
      · exact put _
      · exact (put _).pushOp _ _ _ _ _

theorem takeBeat (b : LpBeat) (hl : lndLate ∈ os) (ho : lndOor ∈ os) (h : KeepsHub os c d) : KeepsHub os c (takeBeat b d) := by
  have h1 : KeepsHub os c { d with mov := { d.mov with lpOwed := tabMod 0 b.link (· + 1) d.mov.lpOwed } } := h.step ⟨rfl, rfl, rfl, rfl⟩
  unfold Machine.takeBeat
  dsimp only
  split
  · exact h1.emit _
  · exact foldl (fun _ x hd => hd.landGo x) _ (foldl (fun _ x hd => hd.landLine _ _ _ _ _ _ hl ho) _ (h1.lovSpend _ _))

theorem takeBeats (bs : List LpBeat) (hl : lndLate ∈ os) (ho : lndOor ∈ os) (h : KeepsHub os c d) : KeepsHub os c (takeBeats bs d) := by
  have put (d : Ctl) (bs : List LpBeat) (h : KeepsHub os c d) : KeepsHub os c { d with lnd := { d.lnd with inbox := bs } } :=
    h.step ⟨rfl, rfl, rfl, rfl⟩
  induction bs generalizing d with
  | nil => exact put d [] h
  | cons b rest ih =>
    unfold Machine.takeBeats
    split
    · exact put d _ h
    · split
      · exact (put d _ h).lovTurnedAway _
      · exact ih (h.takeBeat b hl ho)

theorem landPump (hl : lndLate ∈ os) (ho : lndOor ∈ os) (h : KeepsHub os c d) : KeepsHub os c (landPump d) := by
  have h1 : KeepsHub os c (d.lnd.land.foldl (fun c x => Machine.landGo x c) d) := foldl (fun _ x hd => hd.landGo x) _ h
  unfold Machine.landPump
  dsimp only
  split
  · exact h1
  · exact h1.takeBeats _ hl ho

/-! What a region change asks for as it starts (R73). -/

theorem wakeRegion (n : Nat) (h : KeepsHub os c d) : KeepsHub os c (wakeRegion n d) := by
  refine foldl (fun d sb hd => foldl (fun d p hd => ?_) _ hd) _ h
  unfold wakeBank
  dsimp only
  split
  · exact hd.setBank _ _ _
  · exact hd

theorem flushRegion (n : Nat) (h : KeepsHub os c d) : KeepsHub os c (flushRegion n d) :=
  foldl (fun _ z hd => hd.flushWhere z 2 _) _ h

theorem writeDone (a : Agent) (h : KeepsHub os c d) : KeepsHub os c (writeDone a d) := by
  unfold Machine.writeDone
  split
  · split
    · exact h.drive _
    · exact h
  · exact h

end KeepsHub
end Sys2Proof.Machine
end

section
/-! The write of a region's entry, and the clear that it waits for (R68..R73). -/

namespace Sys2Proof.Machine

/-! Lines that a clear reaches. -/

theorem zeroLine_getD (i : Nat) : zeroLine.getD i 0 = 0 := by
  unfold zeroLine
  rw [List.getD_eq_getElem?_getD, List.getElem?_replicate]
  split <;> rfl

/-- A cleared line outside a save-area image reads as a zero line. -/
theorem clearWhere_same (f : Nat → Bool) (k : Nat) (st : Store) (h : f k = true) (hi : st.image k = none) :
    (st.clearWhere f).data k = zeroLine ∧ (st.clearWhere f).isZero k = true ∧ (st.clearWhere f).isPoison k = false := by
  have himg : (st.clearWhere f).image k = none := hi
  have hcell : ∀ i, i < 64 → tabGet 0 (st.clearWhere f).cells (64 * k + i) = 0 := by
    intro i hl
    have hk : (64 * k + i) / 64 = k := by omega
    have e := tabFind_filter (fun a => !f (a / 64)) st.cells (64 * k + i)
    rw [if_neg (by simp [hk, h])] at e
    exact congrArg (fun o => Option.getD o 0) e
  have htag : tabFind (st.clearWhere f).tags k = none := by
    have e := tabFind_filter (fun a => !f a) st.tags k
    rwa [if_neg (by simp [h])] at e
  refine ⟨?_, ?_, ?_⟩
  · rw [data_of_image_none _ _ himg]
    exact (List.map_congr_left (fun i hl => hcell i (List.mem_range.mp hl))).trans (by decide)
  · simp [Store.isZero, himg, htag]
  · simp [Store.isPoison, himg, htag]

/-- The carve-out of R61 that holds the save area lies outside the region table (R62). -/
theorem regionOf_taPm (m : Nat) : regionOf (taPm + m) = none := by
  have hspread : ¬ (taSpread ≤ taPm + m ∧ taPm + m < taSpread + 0x200000000) := by
    unfold taSpread taPm
    omega
  have hnear : ¬ (taNear ≤ taPm + m ∧ taPm + m < taNear + 16 * 0x40000000) := by
    unfold taNear taPm
    omega
  unfold regionOf
  rw [if_neg hspread, if_neg hnear]

/-- No region has lines in the save area (R426). -/
theorem regionOf_saveKey (c : Ctl) (k : Nat) (h : isSaveKey k = true) : (keyTa c k).bind regionOf = none := by
  simp only [isSaveKey, decide_eq_true_eq] at h
  obtain ⟨hp, hb, -, -⟩ := h
  unfold keyTa
  dsimp only
  rw [hb]
  cases hs : ((List.range 8).map (fun i => 8 * (k / 16384 / 48 / 9) + i)).find?
      (fun s => decide (redirect c s (16384 * 15 + k % 16384) = k / 16384 / 48)) with
  | none => rfl
  | some s =>
    obtain ⟨i, hi, rfl⟩ := List.mem_map.mp (List.mem_of_find?_eq_some hs)
    rw [List.mem_range] at hi
    have hz : (8 * (k / 16384 / 48 / 9) + i) / 8 < 8 := by omega
    have hc : isCarved ((8 * (k / 16384 / 48 / 9) + i) / 8) 15 = true := by simp [isCarved, hz]
    simp only [Option.bind_some, taOf, hc, if_true]
    split
    · rfl
    · exact regionOf_taPm _

/-- A line of a region shows no save-area image. -/
theorem image_of_regionOf (c : Ctl) (st : Store) (k n : Nat) (h : (keyTa c k).bind regionOf = some n) : st.image k = none := by
  have hk : isSaveKey k = false := by
    cases hs : isSaveKey k with
    | false => rfl
    | true => rw [regionOf_saveKey c k hs] at h; cases h
  unfold Store.image
  cases st.blur <;> simp [hk]

/-! The write. -/

theorem block_rg (i o : Nat) (h : o < 0x10000) : (rg i o - 0x100000) / 0x10000 = i := by
  unfold rg
  omega

/-- A register outside the reset domains is never in reset. `regInReset` is unfolded away from its operand: at `o` the kernel would compute the
subtraction in `regDomain o` by successors. -/
theorem regInReset_of_regDomain_none (c : Ctl) (o : Nat) (h : regDomain o = none) : regInReset c o = false := by
  generalize hf : regInReset = f
  delta regInReset at hf
  subst hf
  dsimp only
  rw [h]

theorem block_rgnEnt (n : Nat) (h : n < 8192) : (rgnEnt n - 0x100000) / 0x10000 = 7 := block_rg 7 _ (by omega)

/-- The entries of the region table are in no reset domain of their own (Table 12-7). -/
theorem regDomain_rgnEnt (n : Nat) (h : n < 8192) : regDomain (rgnEnt n) = none := by
  unfold regDomain
  rw [block_rgnEnt n h]
  rfl

/-- The state in which a change of region `n` to `w` has begun, before its write-combining entries leave and its banks wake. -/
def changeBegun (a : Agent) (n : Nat) (w : Word) (c : Ctl) : Ctl :=
  { c with region := some ⟨n, w, c.port.serial⟩, dev := { c.dev with hub := .region a } }

/-- PWR_EV notes a class that R70 refuses; nothing else that the hub sees changes. -/
theorem refusal_keepsHub (b : Bool) (c : Ctl) : KeepsHub [pwrEv] c (if b then latchPwr 3 c else c) := by
  split
  · refine ⟨fun o ho => ?_, by simp, by simp⟩
    have hne : pwrEv ≠ o := fun e => ho (List.mem_singleton.mpr e.symm)
    exact (reg_congr (raiseBit pwrEv 3 c) _ o (by simp [latchPwr]) (by simp [latchPwr])).trans ((reg_modReg pwrEv o _ c).trans (if_neg hne))
  · exact KeepsHub.refl _ c

theorem refusal_serial (b : Bool) (c : Ctl) : (if b then latchPwr 3 c else c).port.serial = c.port.serial := by
  split <;> simp

/-- A write to a populated entry (R70..R73): where it changes the entry, a change begins; else it is done. -/
theorem rgnWrite_cases (a : Agent) (n : Nat) (v : Word) (c : Ctl) (hn : n < 8192) (hp : regionPool c n ≠ 2) :
    ∃ c1, KeepsHub [pwrEv] c c1 ∧ c1.port.serial = c.port.serial ∧
      (((entAfter c n v).1 = reg c (rgnEnt n) ∧ rgnWrite a n v c = c1)
        ∨ ((entAfter c n v).1 ≠ reg c (rgnEnt n) ∧ KeepsHub [] (changeBegun a n (entAfter c n v).1 c1) (rgnWrite a n v c))) := by
  refine ⟨_, refusal_keepsHub (entAfter c n v).2 c, refusal_serial _ c, ?_⟩
  unfold rgnWrite
  rw [if_neg (by omega)]
  dsimp only
  by_cases hw : (entAfter c n v).1 = reg c (rgnEnt n)
  · exact .inl ⟨hw, if_pos hw⟩
  · rw [if_neg hw]
    exact .inr ⟨hw, ((KeepsHub.refl [] _).flushRegion n).wakeRegion n⟩

/-- A write of the entry that the hub takes has its effect, is answered where it waits for nothing, and the port rings go on. -/
theorem exec_rgnEntWrite (a : Agent) (n : Nat) (v : Word) (s : State) (hn : n < 8192) (ht : hubTakes s.ctl a (rgnEnt n) = true) :
    exec (.rgnEntWrite a n v) s = .next (s.onCtl (fun c => pump (writeDone a (rgnWrite a n v c)))) := by
  show nextCtl _ s = _
  unfold nextCtl
  simp [State.onCtl, hn, hubCtl, ht, regInReset_of_regDomain_none s.ctl _ (regDomain_rgnEnt n hn)]

/-- A write to a region of the table begins a change with the requests of before it, or changes nothing but PWR_EV (R70..R73). -/
theorem rgnEntWrite_answers (a : Agent) (n : Nat) (v : Word) (s : State) (hn : n < 8192) (ht : hubTakes s.ctl a (rgnEnt n) = true)
    (hp : regionPool s.ctl n ≠ 2) :
    Answers (.rgnEntWrite a n v) s (fun t =>
      ((entAfter s.ctl n v).1 ≠ reg s.ctl (rgnEnt n) →
        t.ctl.region = some ⟨n, (entAfter s.ctl n v).1, s.ctl.port.serial⟩ ∧ t.ctl.dev.hub = .region a)
      ∧ ((entAfter s.ctl n v).1 = reg s.ctl (rgnEnt n) → t.ctl.region = s.ctl.region)
      ∧ SameRegsBut [pwrEv] s t ∧ SameMemory s t) := by
  refine ⟨_, exec_rgnEntWrite a n v s hn ht, ?_⟩
  have hend : KeepsHub [] (rgnWrite a n v s.ctl) (pump (writeDone a (rgnWrite a n v s.ctl))) := ((KeepsHub.refl [] _).writeDone a).pump
  obtain ⟨c1, h1, hser, ⟨hw, he⟩ | ⟨hw, hc⟩⟩ := rgnWrite_cases a n v s.ctl hn hp
  · have h := h1.trans ((he ▸ hend).mono (by simp))
    rw [← he] at h
    exact ⟨fun hne => absurd hw hne, fun _ => h.region, h.regs, fun _ _ => rfl, fun _ _ => rfl⟩
  · have h := hc.trans hend
    refine ⟨fun _ => ⟨h.region.trans ?_, congrArg DevBlk.hub h.dev⟩, fun e => absurd e hw, fun o ho => ?_, fun _ _ => rfl, fun _ _ => rfl⟩
    · rw [← hser]; rfl
    · exact (h.regs o (by simp)).trans (h1.regs o ho)

/-! The clear. -/

/-- The commands that read or write the region go on under its new attributes, which apply (R213, R311). -/
def attributesApplied (ch : RegionChange) (c0 c : Ctl) : Ctl :=
  let c1 := (c.mov.q.map Prod.fst).foldl (fun c q => modRun q (rereadRun c0 ch.n) c) c
  (c1.mov.q.map Prod.fst).foldl (fun x q => modRun q (repackRun c0 (setReg (rgnEnt ch.n) ch.val c0) ch.n) x)
    (setReg (rgnEnt ch.n) ch.val { c1 with region := none })

/-- The write that waited for the change completes (R73). -/
def changeCompleted (c : Ctl) : Ctl := match c.dev.hub with | .region _ => hubComplete c | _ => c

/-- REGION_CLEAR_COMPLETE when nothing of before the change is left and the banks are awake (R72, R73). -/
theorem regionClear_ready (ch : RegionChange) (s : State) (hc : s.ctl.region = some ch) (hp : regionPending s.ctl ch = false)
    (ha : regionAwake s.ctl ch.n = true) :
    regionClear s = (s.onStore (Store.clearWhere (fun k => decide ((keyTa s.ctl k).bind regionOf = some ch.n)))).onCtl
      (fun c => pump (landPump (changeCompleted (attributesApplied ch s.ctl c)))) := by
  unfold regionClear
  simp only [hc, hp, ha]
  rfl

theorem attributesApplied_region (ch : RegionChange) (c0 c : Ctl) : (attributesApplied ch c0 c).region = none :=
  (KeepsHub.foldl (os := []) (fun _ q hd => hd.modRun q _) _ (KeepsHub.refl [] _)).region.trans (by simp)

theorem attributesApplied_dev (ch : RegionChange) (c0 c : Ctl) : (attributesApplied ch c0 c).dev = c.dev := by
  have h1 := KeepsHub.foldl (os := []) (fun _ q hd => hd.modRun q (rereadRun c0 ch.n)) (c.mov.q.map Prod.fst) (KeepsHub.refl [] c)
  refine (KeepsHub.foldl (os := []) (fun _ q hd => hd.modRun q _) _ (KeepsHub.refl [] _)).dev.trans ?_
  simpa using h1.dev

theorem reg_attributesApplied (ch : RegionChange) (c0 c : Ctl) (o : Nat) :
    reg (attributesApplied ch c0 c) o = if rgnEnt ch.n = o then ch.val else reg c o := by
  have h1 := KeepsHub.foldl (os := []) (fun _ q hd => hd.modRun q (rereadRun c0 ch.n)) (c.mov.q.map Prod.fst) (KeepsHub.refl [] c)
  refine ((KeepsHub.foldl (os := []) (fun _ q hd => hd.modRun q _) _ (KeepsHub.refl [] _)).regs o (by simp)).trans ?_
  rw [reg_setReg]
  exact congrArg _ (h1.regs o (by simp))

theorem hubComplete_eq (c : Ctl) :
    reg (hubComplete c) = reg c ∧ (hubComplete c).region = c.region ∧ (hubComplete c).dev = { c.dev with hub := .idle } := by
  unfold hubComplete
  dsimp only
  split
  · exact ⟨rfl, rfl, rfl⟩
  · exact ⟨funext (fun o => reg_congr _ _ o (by simp) (by simp)), by simp, by simp⟩

theorem changeCompleted_eq (c : Ctl) : reg (changeCompleted c) = reg c ∧ (changeCompleted c).region = c.region
    ∧ ∀ a, c.dev.hub = .region a → (changeCompleted c).dev.hub = .idle := by
  obtain ⟨hr, hg, hd⟩ := hubComplete_eq c
  unfold changeCompleted
  split
  · exact ⟨hr, hg, fun _ _ => congrArg DevBlk.hub hd⟩
  · next hne => exact ⟨rfl, rfl, fun a ha => absurd ha (hne a)⟩

/-- The entries of the table lie apart from the landing unit's counts, which the same step may raise. -/
theorem rgnEnt_ne_lnd (n : Nat) (hn : n < 8192) : rgnEnt n ∉ [lndLate, lndOor] := by
  simp only [List.mem_cons, List.not_mem_nil, or_false, not_or]
  unfold rgnEnt lndLate lndOor rg
  omega

/-- What the clear of region `n` leaves of each stored line (R72). -/
theorem clearRegion_marks (c0 : Ctl) (n : Nat) (st : Store) (k : Nat) :
    let t := st.clearWhere (fun k => decide ((keyTa c0 k).bind regionOf = some n))
    ((keyTa c0 k).bind regionOf = some n → t.data k = zeroLine ∧ (t.isZero k, t.isPoison k) = (true, false))
    ∧ ((keyTa c0 k).bind regionOf ≠ some n → t.data k = st.data k ∧ (t.isZero k, t.isPoison k) = (st.isZero k, st.isPoison k)) := by
  refine ⟨fun h => ?_, fun h => ?_⟩
  · obtain ⟨hd, hz, hp⟩ := clearWhere_same (fun k => decide ((keyTa c0 k).bind regionOf = some n)) k st (decide_eq_true h)
      (image_of_regionOf c0 st k n h)
    exact ⟨hd, Prod.ext hz hp⟩
  · obtain ⟨hd, hz, hp, -⟩ := clearWhere_ne (fun k => decide ((keyTa c0 k).bind regionOf = some n)) k st (decide_eq_false h)
    exact ⟨hd, Prod.ext hz hp⟩

/-- The clear of a region of the table, as O20 has it of any region number (R72, R73, R125). -/
theorem regionClearComplete_answers (n : Nat) (w : Word) (id : Nat) (s : State) (hn : n < 8192) (hc : s.ctl.region = some ⟨n, w, id⟩)
    (hp : regionPending s.ctl ⟨n, w, id⟩ = false) (ha : regionAwake s.ctl n = true) :
    Answers .regionClearComplete s (fun t =>
      (∀ k, (keyTa s.ctl k).bind regionOf = some n → lineMarks t k = (true, false))
      ∧ (∀ b, (keyTa s.ctl (b / 64)).bind regionOf = some n → byteAt t b = 0)
      ∧ (∀ k, (keyTa s.ctl k).bind regionOf ≠ some n → lineMarks t k = lineMarks s k)
      ∧ (∀ b, (keyTa s.ctl (b / 64)).bind regionOf ≠ some n → byteAt t b = byteAt s b)
      ∧ reg t.ctl (rgnEnt n) = w ∧ t.ctl.region = none ∧ (∀ a, s.ctl.dev.hub = .region a → t.ctl.dev.hub = .idle)
      ∧ SameRegsBut [rgnEnt n, lndLate, lndOor] s t) := by
  refine ⟨_, congrArg Host.Outcome.next (regionClear_ready _ s hc hp ha), ?_⟩
  have hmem := clearRegion_marks s.ctl n s.store
  obtain ⟨hreg, hgone, hidle⟩ := changeCompleted_eq (attributesApplied ⟨n, w, id⟩ s.ctl s.ctl)
  have hend := ((KeepsHub.refl [lndLate, lndOor] (changeCompleted (attributesApplied ⟨n, w, id⟩ s.ctl s.ctl))).landPump
    (by simp) (by simp)).pump
  have hregs (o : Nat) (ho : o ∉ [lndLate, lndOor]) := (hend.regs o ho).trans ((congrFun hreg o).trans (reg_attributesApplied _ s.ctl s.ctl o))
  refine ⟨fun k h => ((hmem k).1 h).2, fun b h => ?_, fun k h => ((hmem k).2 h).2, fun b h => ?_, ?_, ?_, fun a h => ?_, fun o ho => ?_⟩
  · exact (congrArg (fun l => l.getD (b % 64) 0) ((hmem (b / 64)).1 h).1).trans (zeroLine_getD _)
  · exact congrArg (fun l => l.getD (b % 64) 0) ((hmem (b / 64)).2 h).1
  · exact (hregs _ (rgnEnt_ne_lnd n hn)).trans (if_pos rfl)
  · exact hend.region.trans (hgone.trans (attributesApplied_region _ s.ctl s.ctl))
  · exact (congrArg DevBlk.hub hend.dev).trans (hidle a ((congrArg DevBlk.hub (attributesApplied_dev _ s.ctl s.ctl)).trans h))
  · obtain ⟨hne, hl⟩ := not_or.mp (fun h => ho (List.mem_cons.mpr h))
    exact (hregs o hl).trans (if_neg (Ne.symm hne))

end Sys2Proof.Machine
end

section
/-! The region change of O20 beyond the region table. -/

namespace Sys2Proof.Machine

/-- A change of "region" 24576, of which there are only 8192: its entry would stand at the offset of LND_LATE. One beat for a closed window waits
at link 0, so that the landing unit counts it there as soon as it goes on. -/
def changeBeyondTable : State :=
  { State.reset with ctl := { Ctl.reset with
      region := some ⟨24576, 0, 0⟩
      lnd := { Ctl.reset.lnd with inbox := [⟨0, 0, 0, 0, [true], [], []⟩] } } }

theorem changeBeyondTable_pending : regionPending changeBeyondTable.ctl ⟨24576, 0, 0⟩ = false := by decide +kernel

theorem changeBeyondTable_awake : regionAwake changeBeyondTable.ctl 24576 = true := by decide +kernel

/-- The late drop is counted on top of the new attributes. -/
theorem reg_regionClear_changeBeyondTable : reg (regionClear changeBeyondTable).ctl (rgnEnt 24576) = 1 := by decide +kernel

/-- Refutes O20: its clear takes the region number from any state and does not ask it to be one of the table's 8192 (R62, R68). At number 24576
the entry written is the register LND_LATE, and the late beat that the landing unit then drops raises it above the value written. No write of
RGN_ENT starts such a change (`rgnWrite` ignores it); for the numbers of the table all that O20 says holds, by `rgnEntWrite_answers` and
`regionClearComplete_answers`. -/
theorem not_regionChangeClearsTheRegion : ¬ Obligations.RegionChangeClearsTheRegion := by
  unfold Obligations.RegionChangeClearsTheRegion
  rintro ⟨-, hclear⟩
  obtain ⟨t, ht, hpost⟩ := hclear 24576 0 0 changeBeyondTable rfl changeBeyondTable_pending changeBeyondTable_awake
  obtain ⟨-, -, -, -, hreg, -⟩ := hpost
  cases ht
  exact absurd (reg_regionClear_changeBeyondTable.symm.trans hreg) (by decide)

end Sys2Proof.Machine
end

section
/-! Queue tails, and the doorbells that move them (R302, R304, R305). -/

namespace Sys2Proof.Machine

/-! Bits that stay or become 1. -/

theorem bit_setBit_true (v : Word) (i j : Nat) (h : i < 32) : bit (setBit v j true) i = (decide (i = j) || bit v i) := by
  unfold bit setBit setBits
  rw [BitVec.testBit_toNat, BitVec.testBit_toNat]
  simp only [BitVec.getLsbD_or, BitVec.getLsbD_and, BitVec.getLsbD_not, BitVec.getLsbD_ofNat, Nat.testBit_shiftLeft]
  by_cases hij : i = j
  · subst hij
    simp [h]
  · have hz : (decide (j ≤ i) && Nat.testBit 1 (i - j)) = false := by
      refine Bool.eq_false_iff.mpr (fun e => hij ?_)
      simp only [Bool.and_eq_true, decide_eq_true_eq, Nat.testBit_one_eq_true_iff_self_eq_zero] at e
      omega
    simp [h, hij, hz]

theorem bit_stat_raiseInt (n i : Nat) (c : Ctl) (h : i < 32) : bit (raiseInt n c).int.stat i = (decide (i = n) || bit c.int.stat i) :=
  bit_setBit_true c.int.stat i n h

/-- Counting an event leaves no interrupt cause cleared (R503). -/
theorem bit_stat_countOne (e : Ev) (i : Nat) (hi : i < 32) (c : Ctl) (p : Nat × Ctr) (h : bit c.int.stat i = true) :
    bit (countOne e c p).int.stat i = true := by
  unfold countOne
  split
  · dsimp only
    split
    · split
      · rw [bit_stat_raiseInt _ _ _ hi, h, Bool.or_true]
      · exact h
    · exact h
  · exact h

theorem bit_stat_emit (e : Ev) (i : Nat) (hi : i < 32) (c : Ctl) (h : bit c.int.stat i = true) : bit (emit e c).int.stat i = true := by
  unfold emit
  split
  · exact List.foldlRecOn (motive := fun d => bit d.int.stat i = true) _ _ h (fun d hd p _ => bit_stat_countOne e i hi d p hd)
  · exact h

/-! The tail itself. -/

theorem movErr_ne_movQtail (q : Nat) : movErr (q / 32) ≠ movQtail q := by
  unfold movErr movQtail movQ rg
  omega

@[simp] theorem dropRecord_frame (q : Nat) (c : Ctl) :
    (dropRecord q c).part = c.part ∧ (dropRecord q c).regs = c.regs ∧ (dropRecord q c).dev = c.dev ∧ (dropRecord q c).edge = c.edge
      ∧ (dropRecord q c).out = c.out ∧ (dropRecord q c).chv = c.chv :=
  ⟨rfl, rfl, rfl, rfl, rfl, rfl⟩

/-- What a tail update changes, besides the queue's record at head: its tail where the ring has room for it, and else the queue's bit of MOV_ERR
and the cause MOV_RING_ERR (R302). -/
structure TailUpdated (q tail : Nat) (c d : Ctl) : Prop where
  room : ringDist (queueOf c q).head tail ≤ qSize c q →
    reg d (movQtail q) = BitVec.ofNat 32 tail ∧ ∀ o, o ∉ [movQtail q] → reg d o = reg c o
  full : qSize c q < ringDist (queueOf c q).head tail →
    reg d (movQtail q) = reg c (movQtail q) ∧ bit (reg d (movErr (q / 32))) (q % 32) = true ∧ bit d.int.stat 17 = true
      ∧ ∀ o, o ∉ [movErr (q / 32)] → reg d o = reg c o

/-- A refused update: the registers and the cause. -/
theorem setTail_full (q tail : Nat) (c : Ctl) (h : qSize c q < ringDist (queueOf c q).head tail) :
    (∀ o, reg (setTail q tail c) o = if movErr (q / 32) = o then setBit (reg c (movErr (q / 32))) (q % 32) true else reg c o)
      ∧ bit (setTail q tail c).int.stat 17 = true := by
  unfold setTail
  rw [if_pos h]
  refine ⟨fun o => ?_, bit_stat_emit _ 17 (by decide) _ (by simp [bit_stat_raiseInt])⟩
  exact (reg_congr (raiseBit (movErr (q / 32)) (q % 32) c) _ o (by simp) (by simp)).trans (reg_modReg _ o _ c)

/-- An update that the ring has room for: the registers. -/
theorem setTail_room (q tail : Nat) (c : Ctl) (h : ringDist (queueOf c q).head tail ≤ qSize c q) (o : Nat) :
    reg (setTail q tail c) o = if movQtail q = o then BitVec.ofNat 32 tail else reg c o := by
  rw [← reg_setReg]
  unfold setTail
  rw [if_neg (Nat.not_lt.mpr h)]
  dsimp only
  split
  · exact reg_congr _ _ o (by simp) (by simp)
  · rfl

theorem setTail_updates (q tail : Nat) (c : Ctl) : TailUpdated q tail c (setTail q tail c) where
  room h := by
    refine ⟨(setTail_room q tail c h _).trans (if_pos rfl), fun o ho => (setTail_room q tail c h o).trans (if_neg ?_)⟩
    exact fun e => ho (List.mem_singleton.mpr e.symm)
  full h := by
    obtain ⟨hreg, hint⟩ := setTail_full q tail c h
    refine ⟨(hreg _).trans (if_neg (movErr_ne_movQtail q)), ?_, hint, fun o ho => (hreg o).trans (if_neg ?_)⟩
    · rw [hreg, if_pos rfl, bit_setBit_true _ _ _ (Nat.mod_lt _ (by decide))]
      simp
    · exact fun e => ho (List.mem_singleton.mpr e.symm)

theorem setTail_frame (q tail : Nat) (c : Ctl) :
    (setTail q tail c).dev = c.dev ∧ (setTail q tail c).edge = c.edge ∧ (setTail q tail c).out = c.out ∧ (setTail q tail c).chv = c.chv := by
  unfold setTail
  split
  · simp
  · dsimp only
    split <;> simp

/-- What the update changes does not depend on what the command does besides. -/
theorem TailUpdated.congr {q tail : Nat} {c d c' d' : Ctl} (h : TailUpdated q tail c d) (hc : reg c' = reg c) (hq : queueOf c' q = queueOf c q)
    (hd : reg d' = reg d) (hi : d'.int = d.int) : TailUpdated q tail c' d' := by
  have hs : qSize c' q = qSize c q := by unfold qSize; rw [hc]
  obtain ⟨room, full⟩ := h
  constructor <;> rw [hc, hq, hs, hd]
  · exact room
  · rw [hi]
    exact full

/-! The write of MOV_QTAIL. -/

theorem reg_writeDone (a : Agent) (c : Ctl) : reg (writeDone a c) = reg c :=
  funext (fun o => ((KeepsHub.refl [] c).writeDone a).regs o (by simp))

theorem writeDone_int (a : Agent) (c : Ctl) : (writeDone a c).int = c.int := by
  cases a with
  | acien => rfl
  | mp =>
    unfold writeDone
    dsimp only
    split <;> simp

/-- A write of MP that waits for nothing is answered with OK, unless its outputs are undefined (R12, R511). -/
theorem writeDone_mp_edge (c : Ctl) (hh : c.dev.hub = .idle) (hv : c.out.vague = false) :
    (writeDone .mp c).edge = c.edge ++ [.mpRs .ok 0] := by
  unfold writeDone
  dsimp only
  rw [if_pos hh]
  exact drive_edge _ c (by simp [edgeHeld, edgeCore]) hv

/-- The hub takes an access only when it holds no other (R39). -/
theorem hub_idle_of_hubTakes {c : Ctl} {a : Agent} {o : Nat} (h : hubTakes c a o = true) : c.dev.hub = .idle := by
  cases a with
  | mp =>
    simp only [hubTakes, mpOpen, Bool.and_eq_true, decide_eq_true_eq] at h
    obtain ⟨⟨⟨-, hh⟩, -⟩, -⟩ := h
    exact hh
  | acien =>
    simp only [hubTakes, Bool.and_eq_true, decide_eq_true_eq] at h
    exact h.2

theorem exec_movQtailWrite (a : Agent) (q : Nat) (v : Word) (s : State) (hq : q < 72) (ht : takesWrite s a (movQtail q)) :
    exec (.movQtailWrite a q v) s = .next (s.onCtl (fun c => writeDone a (setTail q (bits v 0 16) c))) := by
  obtain ⟨hh, hr⟩ := ht
  show execMovQtailWrite a q v s = _
  simp [execMovQtailWrite, nextCtl, State.onCtl, hubCtl, tailWrite, hq, hh, hr]

/-- A taken write of MOV_QTAIL updates the tail, and is answered with OK (R302). -/
theorem movQtailWrite_answers (a : Agent) (q : Nat) (v : Word) (s : State) (hq : q < 72) (ht : takesWrite s a (movQtail q)) :
    Answers (.movQtailWrite a q v) s (fun t => TailUpdated q (bits v 0 16) s.ctl t.ctl
      ∧ (a = .mp → s.ctl.out.vague = false → t.ctl.edge = s.ctl.edge ++ [.mpRs .ok 0]) ∧ SameMemory s t) := by
  refine ⟨_, exec_movQtailWrite a q v s hq ht, ?_, ?_, fun _ _ => rfl, fun _ _ => rfl⟩
  · exact (setTail_updates q _ s.ctl).congr rfl rfl (reg_writeDone a _) (writeDone_int a _)
  · rintro rfl hv
    obtain ⟨hdev, hedge, hout, -⟩ := setTail_frame q (bits v 0 16) s.ctl
    have h := writeDone_mp_edge (setTail q (bits v 0 16) s.ctl) (by rw [hdev]; exact hub_idle_of_hubTakes ht.1) (by rw [hout]; exact hv)
    rwa [hedge] at h

/-! The doorbell: its flush of the write-combining buffer. -/

theorem chvOf_congr {c d : Ctl} (h : d.chv = c.chv) (z : Nat) : chvOf d z = chvOf c z := congrArg (tabGet Chv.rest · z) h

theorem chvOf_emit (e : Ev) (c : Ctl) (z : Nat) : chvOf (emit e c) z = chvOf c z := chvOf_congr (by simp) z

/-- A flushed entry leaves the buffer, and nothing else of the tracker changes. -/
theorem chvOf_flushEntry (z trigger : Nat) (e : WcEntry) (c : Ctl) :
    chvOf (flushEntry z trigger e c) z = { chvOf c z with wc := (chvOf c z).wc.filter (fun y => decide (y.ta ≠ e.ta)) } := by
  unfold flushEntry
  dsimp only
  rw [chvOf_emit]
  exact chvOf_setChv_same z _ c

theorem chvOf_foldl_flushEntry (z trigger : Nat) (l : List WcEntry) (c : Ctl) :
    chvOf (l.foldl (fun c e => flushEntry z trigger e c) c) z
      = { chvOf c z with wc := (chvOf c z).wc.filter (fun y => l.all (fun e => decide (y.ta ≠ e.ta))) } := by
  induction l generalizing c with
  | nil => simp
  | cons e r ih =>
    rw [List.foldl_cons, ih, chvOf_flushEntry]
    simp [List.filter_filter, Bool.and_comm]

/-- A flush of every entry empties the buffer. -/
theorem chvOf_flushWhere_all (z trigger : Nat) (c : Ctl) :
    chvOf (flushWhere z trigger (fun _ => true) c) z = { chvOf c z with wc := [] } := by
  unfold flushWhere
  rw [chvOf_foldl_flushEntry, List.filter_true]
  have hnil : (chvOf c z).wc.filter (fun y => (chvOf c z).wc.all (fun e => decide (y.ta ≠ e.ta))) = [] :=
    List.filter_eq_nil_iff.mpr (fun y hy hall => of_decide_eq_true (List.all_eq_true.mp hall y hy) rfl)
  rw [hnil]

/-- A doorbell that its core may present joins those that wait, and flushes the write-combining buffer (R182, R304, R305). -/
theorem queueDoorbell_answers (z j tail seq : Nat) (s : State) (hz : z < 16) (hj : j < 4) (ho : coreOpen s.ctl z = true)
    (hd : (chvOf s.ctl z).dbs.length < 2) :
    Answers (.queueDoorbell z j tail seq) s (fun t =>
      (chvOf t.ctl z).dbs = (chvOf s.ctl z).dbs ++ [⟨4 * z + j, tail % 65536, seq % 256, none, s.ctl.pc⟩]
      ∧ (chvOf t.ctl z).wc = [] ∧ SameRegs s t ∧ SameMemory s t) := by
  refine ⟨s.onCtl (doorbell z j tail seq), rfl, ?_⟩
  have hchv : chvOf (doorbell z j tail seq s.ctl) z
      = { chvOf s.ctl z with dbs := (chvOf s.ctl z).dbs ++ [⟨4 * z + j, tail % 65536, seq % 256, none, s.ctl.pc⟩], wc := [] } := by
    unfold doorbell
    rw [if_pos ⟨hz, hj, ho, hd⟩]
    dsimp only
    rw [chvOf_emit, chvOf_flushWhere_all, chvOf_setChv_same]
  refine ⟨congrArg Chv.dbs hchv, congrArg Chv.wc hchv, fun o hn => ?_, fun _ _ => rfl, fun _ _ => rfl⟩
  show reg (doorbell z j tail seq s.ctl) o = _
  unfold doorbell
  rw [if_pos ⟨hz, hj, ho, hd⟩]
  exact ((((KeepsHub.refl [] s.ctl).setChv _ _).flushWhere _ _ _).emit _).regs o hn

/-! The doorbell: its turn. -/

/-- The only doorbell of a core applies once the core's earlier writes have retired and the movers are out of reset (R305). -/
theorem doorbellApply_only (z n : Nat) (d : Doorbell) (c : Ctl) (hd : (chvOf c z).dbs = [d]) (hn : d.reg = some n)
    (hw : writesRetired c z n = true) (hr : domInReset c 16 = false) :
    doorbellApply z c = setTail d.q d.tail (setChv z { chvOf c z with dbs := [] } c) := by
  simp [doorbellApply, hd, hn, hw, hr]

theorem doorbellApply_answers (z n : Nat) (d : Doorbell) (s : State) (hd : (chvOf s.ctl z).dbs = [d]) (hn : d.reg = some n)
    (hw : writesRetired s.ctl z n = true) (hr : domInReset s.ctl 16 = false) :
    Answers (.doorbellApply z) s (fun t => (chvOf t.ctl z).dbs = [] ∧ TailUpdated d.q d.tail s.ctl t.ctl ∧ SameMemory s t) := by
  refine ⟨s.onCtl (doorbellApply z), rfl, ?_⟩
  dsimp only [onCtl_ctl]
  rw [doorbellApply_only z n d s.ctl hd hn hw hr]
  obtain ⟨-, -, -, hchv⟩ := setTail_frame d.q d.tail (setChv z { chvOf s.ctl z with dbs := [] } s.ctl)
  have hu := setTail_updates d.q d.tail (setChv z { chvOf s.ctl z with dbs := [] } s.ctl)
  have hreg : reg s.ctl = reg (setChv z { chvOf s.ctl z with dbs := [] } s.ctl) := funext (fun o => reg_congr _ _ o (by simp) (by simp))
  refine ⟨?_, hu.congr hreg (by simp [queueOf]) rfl rfl, fun _ _ => rfl, fun _ _ => rfl⟩
  rw [chvOf_congr hchv, chvOf_setChv_same]

/-- Settles O21: the write and the doorbell both end in `setTail`, whose two outcomes `TailUpdated` says. -/
theorem tailsAreMoved : Obligations.TailsAreMoved := by
  unfold Obligations.TailsAreMoved
  refine ⟨fun a q v s hq ht => ?_, queueDoorbell_answers, fun z n d s hd hn hw hr => ?_⟩
  · obtain ⟨t, hx, hu, hok, hm⟩ := movQtailWrite_answers a q v s hq ht
    exact ⟨t, hx, hu.room, hu.full, hok, hm⟩
  · obtain ⟨t, hx, hdb, hu, hm⟩ := doorbellApply_answers z n d s hd hn hw hr
    exact ⟨t, hx, hdb, hu.room, hu.full, hm⟩

end Sys2Proof.Machine
end

section
/-! Mailbox messages and their acknowledges, and the doorbell bits (R365..R369). -/

namespace Sys2Proof.Machine

/-! A field of a register word after it is replaced. -/

theorem bits_setBits_same (v : Word) (lo w x : Nat) (h : lo + w ≤ 32) : bits (setBits v lo w x) lo w = x % 2 ^ w := by
  unfold bits setBits
  refine Nat.eq_of_testBit_eq (fun i => ?_)
  rw [Nat.testBit_mod_two_pow, Nat.testBit_mod_two_pow, Nat.testBit_shiftRight, BitVec.testBit_toNat]
  by_cases hi : i < w
  · have hlt : lo + i < 32 := by omega
    simp only [BitVec.getLsbD_or, BitVec.getLsbD_and, BitVec.getLsbD_not, BitVec.getLsbD_ofNat, Nat.testBit_shiftLeft,
      Nat.testBit_mod_two_pow, Nat.testBit_two_pow_sub_one]
    simp [hi, hlt]
  · simp [hi]

/-! A write that the hub takes. -/

theorem sameMemory_onCtl (f : Ctl → Ctl) (s : State) : SameMemory s (s.onCtl f) := ⟨fun _ _ => rfl, fun _ _ => rfl⟩

/-- A taken write has its effect, and is answered (R12, R39). -/
theorem nextCtl_hubCtl_of_takesWrite {s : State} {a : Agent} {o : Nat} (ht : takesWrite s a o) (v : Word) (f : Ctl → Ctl) :
    nextCtl (hubCtl a o v f) s = .next (s.onCtl (fun c => writeDone a (f c))) := by
  obtain ⟨hh, hr⟩ := ht
  simp [nextCtl, State.onCtl, hubCtl, hh, hr]

theorem writeDone_srl (a : Agent) (c : Ctl) : (writeDone a c).srl = c.srl := by
  cases a with
  | acien => rfl
  | mp =>
    unfold writeDone
    dsimp only
    split <;> simp

/-! What the registers of a channel do when they are written. -/

theorem mbxWrite_msg (a : Agent) (k : Nat) (v : Word) (c : Ctl) (hk : k < 18) (hd : c.srl.dead = false) :
    mbxWrite a (16 * k) v c = msgWrite a k v c := by
  have ho : 16 * k < 0x120 := by omega
  simp [mbxWrite, hd, ho]

theorem mbxWrite_ack (a : Agent) (k : Nat) (v : Word) (c : Ctl) (hk : k < 18) (hd : c.srl.dead = false) :
    mbxWrite a (16 * k + 8) v c = ackWrite a k v c := by
  have ho : 16 * k + 8 < 0x120 := by omega
  have hdiv : (16 * k + 8) / 16 = k := by omega
  have hmod : (16 * k + 8) % 16 = 8 := by omega
  simp [mbxWrite, hd, ho, hdiv, hmod]

/-- `d` differs from `c` in channel `k`, which is `x` in it, and in no other channel and no register word. -/
structure ChanWritten (k : Nat) (x : Chan) (c d : Ctl) : Prop where
  chan : chanOf d k = x
  others : ∀ j, j ≠ k → chanOf d j = chanOf c j
  regs : reg d = reg c

namespace ChanWritten

variable {k : Nat} {x : Chan} {c d e : Ctl}

theorem setChan (k : Nat) (x : Chan) (c : Ctl) : ChanWritten k x c (setChan k x c) where
  chan := chanOf_setChan_same k x c
  others j hj := (chanOf_setChan k j x c).trans (if_neg (Ne.symm hj))
  regs := rfl

/-- One more operation that writes neither channels nor registers. -/
theorem step (h : ChanWritten k x c d) (hs : e.srl = d.srl) (hr : reg e = reg d) : ChanWritten k x c e := by
  have hc : chanOf e = chanOf d := by unfold chanOf; rw [hs]
  obtain ⟨chan, others, regs⟩ := h
  exact ⟨hc ▸ chan, hc ▸ others, hr.trans regs⟩

theorem emit (v : Ev) (h : ChanWritten k x c d) : ChanWritten k x c (emit v d) :=
  h.step (by simp) (funext (fun o => reg_congr _ _ o (by simp) (by simp)))

theorem drive (v : Edge) (h : ChanWritten k x c d) : ChanWritten k x c (drive v d) :=
  h.step (by simp) (funext (fun o => reg_congr _ _ o (by simp) (by simp)))

theorem raiseInt (n : Nat) (h : ChanWritten k x c d) : ChanWritten k x c (raiseInt n d) := h.step rfl rfl

theorem writeDone (a : Agent) (h : ChanWritten k x c d) : ChanWritten k x c (writeDone a d) :=
  h.step (writeDone_srl a d) (reg_writeDone a d)

end ChanWritten

/-! Messages (R365, R366). -/

theorem chanSend_full (k : Nat) (v : Word) (c : Ctl) (h : (chanOf c k).full = true) :
    chanSend k v c = setChan k { chanOf c k with ovf := true } c := by
  simp [chanSend, h]

theorem chanSend_free (k : Nat) (v : Word) (c : Ctl) (h : (chanOf c k).full = false) :
    chanSend k v c = emit { evQ 0x5E k with zone := if 1 ≤ k ∧ k ≤ 16 then some (k - 1) else none }
      (setChan k { chanOf c k with msg := v, full := true } c) := by
  simp [chanSend, h]

theorem chanSend_written (k : Nat) (v : Word) (c : Ctl) :
    ChanWritten k (if (chanOf c k).full then { chanOf c k with ovf := true } else { chanOf c k with msg := v, full := true }) c
      (chanSend k v c) := by
  cases h : (chanOf c k).full with
  | true => exact chanSend_full k v c h ▸ ChanWritten.setChan k _ c
  | false => exact chanSend_free k v c h ▸ (ChanWritten.setChan k _ c).emit _

theorem chanSend_frame (k : Nat) (v : Word) (c : Ctl) :
    (chanSend k v c).dev = c.dev ∧ (chanSend k v c).edge = c.edge ∧ (chanSend k v c).out = c.out := by
  cases h : (chanOf c k).full with
  | true => rw [chanSend_full k v c h]; simp
  | false => rw [chanSend_free k v c h]; simp

/-- A core's mailbox is ready only while its channel is free (R366). -/
theorem full_of_mbReady {c : Ctl} {k : Nat} (hk : 1 ≤ k) (h : mbReady c (k - 1) = true) : (chanOf c k).full = false := by
  have he : 1 + (k - 1) = k := by omega
  simp only [mbReady, he, Bool.and_eq_true, Bool.not_eq_true'] at h
  exact h.2

/-- A message that a ready core sends fills its channel. -/
theorem mailboxMessage_core_answers (k : Nat) (v : Word) (s : State) (h1 : 1 ≤ k) (h16 : k ≤ 16) (hr : mbReady s.ctl (k - 1) = true) :
    Answers (.mailboxMessage true k v) s (fun t =>
      ChanWritten k { chanOf s.ctl k with msg := v, full := true } s.ctl t.ctl ∧ SameMemory s t) := by
  refine ⟨s.onCtl (chanSend k v), ?_, ?_, sameMemory_onCtl _ s⟩
  · show execMailboxMessage true k v s = _
    simp [execMailboxMessage, nextCtl, State.onCtl, h1, h16, hr]
  · have h := chanSend_written k v s.ctl
    rwa [full_of_mbReady h1 hr] at h

/-- A message of MP to the host's or the BMC's channel fills it, or sets its overflow bit, and is answered with OK. -/
theorem mailboxMessage_mp_answers (k : Nat) (v : Word) (s : State) (hk : k = 0 ∨ k = 17) (hd : s.ctl.srl.dead = false)
    (ht : takesWrite s .mp (rg 5 (16 * k))) :
    Answers (.mailboxMessage false k v) s (fun t =>
      ChanWritten k (if (chanOf s.ctl k).full then { chanOf s.ctl k with ovf := true }
        else { chanOf s.ctl k with msg := v, full := true }) s.ctl t.ctl
      ∧ (s.ctl.out.vague = false → t.ctl.edge = s.ctl.edge ++ [.mpRs .ok 0]) ∧ SameMemory s t) := by
  have h18 : k < 18 := by omega
  have hsend : mbxWrite .mp (16 * k) v s.ctl = chanSend k v s.ctl :=
    (mbxWrite_msg .mp k v s.ctl h18 hd).trans (if_pos ⟨rfl, hk⟩)
  refine ⟨s.onCtl (fun c => writeDone .mp (mbxWrite .mp (16 * k) v c)), ?_, ?_, ?_, sameMemory_onCtl _ s⟩
  · show execMailboxMessage false k v s = _
    simp [execMailboxMessage, h18, nextCtl_hubCtl_of_takesWrite ht]
  · rw [onCtl_ctl, hsend]
    exact (chanSend_written k v s.ctl).writeDone .mp
  · intro hv
    obtain ⟨hdev, hedge, hout⟩ := chanSend_frame k v s.ctl
    rw [onCtl_ctl, hsend, writeDone_mp_edge _ (hdev ▸ hub_idle_of_hubTakes ht.1) (hout ▸ hv), hedge]

/-! Acknowledges (R367). -/

/-- A channel that Acien acknowledges with `v`: a core's channel, answered at once, shows no acknowledge. -/
def acked (k : Nat) (v : Word) (x : Chan) : Chan := { x with ack := v, full := false, ackv := !decide (1 ≤ k ∧ k ≤ 16) }

/-- The acknowledge of a full channel, without what tells its sender. -/
def ackStored (k : Nat) (v : Word) (c : Ctl) : Ctl := emit (evQ 0x5F k) (setChan k (acked k v (chanOf c k)) c)

theorem ackStored_written (k : Nat) (v : Word) (c : Ctl) : ChanWritten k (acked k v (chanOf c k)) c (ackStored k v c) :=
  (ChanWritten.setChan k _ c).emit _

theorem ackWrite_core (k : Nat) (v : Word) (c : Ctl) (hd : c.srl.dead = false) (hf : (chanOf c k).full = true) (h : 1 ≤ k ∧ k ≤ 16) :
    ackWrite .acien k v c = drive (.mbAck (k - 1) v) (ackStored k v c) := by
  simp [ackWrite, ackStored, acked, hd, hf, h]

theorem ackWrite_host (v : Word) (c : Ctl) (hd : c.srl.dead = false) (hf : (chanOf c 0).full = true) :
    ackWrite .acien 0 v c = raiseInt 14 (ackStored 0 v c) := by
  simp [ackWrite, ackStored, acked, hd, hf]

theorem ackWrite_bmc (v : Word) (c : Ctl) (hd : c.srl.dead = false) (hf : (chanOf c 17).full = true) :
    ackWrite .acien 17 v c = ackStored 17 v c := by
  simp [ackWrite, ackStored, acked, hd, hf]

/-- The sender's side of a channel: the host, a core, or the BMC (R365). -/
theorem channel_cases {k : Nat} (hk : k < 18) : k = 0 ∨ (1 ≤ k ∧ k ≤ 16) ∨ k = 17 := by omega

theorem ackWrite_written (k : Nat) (v : Word) (c : Ctl) (hk : k < 18) (hd : c.srl.dead = false) (hf : (chanOf c k).full = true) :
    ChanWritten k (acked k v (chanOf c k)) c (ackWrite .acien k v c) := by
  have hs := ackStored_written k v c
  obtain rfl | hc | rfl := channel_cases hk
  · exact ackWrite_host v c hd hf ▸ hs.raiseInt 14
  · exact ackWrite_core k v c hd hf hc ▸ hs.drive _
  · exact ackWrite_bmc v c hd hf ▸ hs

/-- A core's acknowledge is driven to it at once, where nothing holds its outputs (R473, R511). -/
theorem ackWrite_core_edge (k : Nat) (v : Word) (c : Ctl) (hd : c.srl.dead = false) (hf : (chanOf c k).full = true)
    (h : 1 ≤ k ∧ k ≤ 16) (hdr : drives c (.mbAck (k - 1) v)) : (ackWrite .acien k v c).edge = c.edge ++ [.mbAck (k - 1) v] := by
  obtain ⟨hheld, hvague⟩ := hdr
  have hreg : reg (ackStored k v c) = reg c := (ackStored_written k v c).regs
  have hout : (ackStored k v c).out = c.out := by simp [ackStored]
  have hedge : (ackStored k v c).edge = c.edge := by simp [ackStored]
  have hheld' : edgeHeld (ackStored k v c) (.mbAck (k - 1) v) = false := by
    unfold edgeHeld at hheld ⊢
    rwa [hreg]
  rw [ackWrite_core k v c hd hf h, drive_edge _ _ hheld' (hout ▸ hvague), hedge]

theorem mbxAckWrite_answers (k : Nat) (v : Word) (s : State) (hk : k < 18) (hd : s.ctl.srl.dead = false)
    (ht : takesWrite s .acien (rg 5 (16 * k + 8))) (hf : (chanOf s.ctl k).full = true) :
    Answers (.mbxAckWrite .acien k v) s (fun t =>
      ChanWritten k (acked k v (chanOf s.ctl k)) s.ctl t.ctl
      ∧ (k = 0 → bit t.ctl.int.stat 14 = true)
      ∧ (1 ≤ k → k ≤ 16 → drives s.ctl (.mbAck (k - 1) v) → t.ctl.edge = s.ctl.edge ++ [.mbAck (k - 1) v]) ∧ SameMemory s t) := by
  have hack : mbxWrite .acien (16 * k + 8) v s.ctl = ackWrite .acien k v s.ctl := mbxWrite_ack .acien k v s.ctl hk hd
  refine ⟨s.onCtl (mbxWrite .acien (16 * k + 8) v), ?_, ?_, ?_, ?_, sameMemory_onCtl _ s⟩
  · show execMbxAckWrite .acien k v s = _
    rw [execMbxAckWrite, if_pos hk, nextCtl_hubCtl_of_takesWrite ht]
    rfl
  all_goals rw [onCtl_ctl, hack]
  · exact ackWrite_written k v s.ctl hk hd hf
  · rintro rfl
    rw [ackWrite_host v s.ctl hd hf, bit_stat_raiseInt _ _ _ (by decide)]
    rfl
  · exact fun h1 h16 => ackWrite_core_edge k v s.ctl hd hf ⟨h1, h16⟩

/-! Doorbell bits (R369). -/

theorem fieldsOf_mbxDb (p : Part) : fieldsOf p mbxDb = [fld 18 14 .w1s] := rfl

/-- A write of MBX_DB adds its doorbell bits to those that are set. -/
theorem bits_writeStored_mbxDb (v : Word) (c : Ctl) :
    bits (reg (writeStored mbxDb v c) mbxDb) 18 14 = bits (reg c mbxDb) 18 14 ||| bits v 18 14 := by
  rw [reg_writeStored, if_pos rfl, fieldsOf_mbxDb]
  show bits (setBits _ 18 14 (bits (reg c mbxDb) 18 14 ||| bits v 18 14)) 18 14 = _
  rw [bits_setBits_same _ _ _ _ (by decide)]
  exact Nat.mod_eq_of_lt (Nat.or_lt_two_pow (Nat.mod_lt _ (by decide)) (Nat.mod_lt _ (by decide)))

/-- MBX_DB without the doorbell bits that are 1 in `v`. -/
def dbCleared (v d : Word) : Word := setBits d 18 14 (bits d 18 14 &&& (2 ^ 14 - 1 - bits v 18 14))

theorem bits_dbCleared (v d : Word) : bits (dbCleared v d) 18 14 = bits d 18 14 &&& (2 ^ 14 - 1 - bits v 18 14) := by
  rw [dbCleared, bits_setBits_same _ _ _ _ (by decide)]
  exact Nat.mod_eq_of_lt (Nat.and_lt_two_pow _ (by omega))

theorem mbxWrite_dbSet (v : Word) (c : Ctl) (hd : c.srl.dead = false) : mbxWrite .mp 0x200 v c = writeStored mbxDb v c := by
  simp [mbxWrite, hd]

theorem mbxWrite_dbClr (v : Word) (c : Ctl) (hd : c.srl.dead = false) : mbxWrite .acien 0x208 v c = modReg mbxDb (dbCleared v) c := by
  rw [mbxWrite, hd]
  rfl

theorem mbxDbSet_answers (v : Word) (s : State) (hd : s.ctl.srl.dead = false) (ht : takesWrite s .mp mbxDb) :
    Answers (.mbxDbSet .mp v) s (fun t => bits (reg t.ctl mbxDb) 18 14 = bits (reg s.ctl mbxDb) 18 14 ||| bits v 18 14
      ∧ SameRegsBut [mbxDb] s t ∧ SameMemory s t) := by
  refine ⟨_, nextCtl_hubCtl_of_takesWrite ht v (mbxWrite .mp 0x200 v), ?_, fun o ho => ?_, sameMemory_onCtl _ s⟩
  all_goals rw [onCtl_ctl, reg_writeDone, mbxWrite_dbSet v s.ctl hd]
  · exact bits_writeStored_mbxDb v s.ctl
  · exact (reg_writeStored _ _ _ _).trans (if_neg (fun e => ho (List.mem_singleton.mpr e.symm)))

theorem mbxDbClr_answers (v : Word) (s : State) (hd : s.ctl.srl.dead = false) (ht : takesWrite s .acien (rg 5 0x208)) :
    Answers (.mbxDbClr .acien v) s (fun t =>
      bits (reg t.ctl mbxDb) 18 14 = bits (reg s.ctl mbxDb) 18 14 &&& (2 ^ 14 - 1 - bits v 18 14)
      ∧ SameRegsBut [mbxDb] s t ∧ SameMemory s t) := by
  refine ⟨_, nextCtl_hubCtl_of_takesWrite ht v (mbxWrite .acien 0x208 v), ?_, fun o ho => ?_, sameMemory_onCtl _ s⟩
  all_goals rw [onCtl_ctl, reg_writeDone, mbxWrite_dbClr v s.ctl hd, reg_modReg]
  · rw [if_pos rfl, bits_dbCleared]
  · exact if_neg (fun e => ho (List.mem_singleton.mpr e.symm))

/-- Settles O38: each write changes one channel (`ChanWritten`) or the word MBX_DB, and the hub's answer changes neither. -/
theorem messagesAndDoorbells : Obligations.MessagesAndDoorbells := by
  unfold Obligations.MessagesAndDoorbells
  refine fun k v s hk hd => ⟨fun h1 h16 hr => ?_, fun h1 _ hf => ?_, fun hm ht => ?_, fun ht hf => ?_, mbxDbSet_answers v s hd,
    mbxDbClr_answers v s hd⟩
  · obtain ⟨t, hx, ⟨hchan, hothers, hregs⟩, hmem⟩ := mailboxMessage_core_answers k v s h1 h16 hr
    exact ⟨t, hx, hchan, hothers, fun o _ => congrFun hregs o, hmem⟩
  · exact Bool.eq_false_iff.mpr (fun hr => Bool.false_ne_true ((full_of_mbReady h1 hr).symm.trans hf))
  · obtain ⟨t, hx, ⟨hchan, hothers, hregs⟩, hok, hmem⟩ := mailboxMessage_mp_answers k v s hm hd ht
    exact ⟨t, hx, hchan, hok, hothers, fun o _ => congrFun hregs o, hmem⟩
  · obtain ⟨t, hx, ⟨hchan, hothers, hregs⟩, hint, hedge, hmem⟩ := mbxAckWrite_answers k v s hk hd ht hf
    exact ⟨t, hx, hchan, hint, hedge, hothers, fun o _ => congrFun hregs o, hmem⟩

end Sys2Proof.Machine
end
